-- ==== Sys2Proof/Word.lean ====
section
/-! DEFINITION. The machine's values: words, trits and bytes (spec 00_scope.md rules R8, R9, R12). -/

namespace Sys2Proof

/-- A word: an integer in 0..59048, that is 0..N−1 with N = 3^10 (R8, R11). The type holds no other value,
so the 16-bit codes 59049..65535 do not exist here (R9, R20; 93_implementation_defined.md I6).
DEDUCED, log entry 1; safe. -/
abbrev Word := Fin 59049

/-- A single base-3 digit, value in {0,1,2} (R15). Its subtraction is subtraction modulo 3. -/
abbrev Trit := Fin 3

/-- One I/O byte, 0..255 (R8). -/
abbrev Byte := BitVec 8

/-- `SENTINEL` = N−1 = 59048: end of input on `IN`, halt on `OUT` (R8, R15). -/
abbrev sentinel : Word := 59048

end Sys2Proof
end

