-- ==== Sys2Proof/Config.lean ====
section
/-! DEFINITION. What the spec fixes for the machine, and the default of the one parameter it leaves open. -/

namespace Sys2Proof

/-- `N` = `MEM_WORDS` = 59049 (R8): the number of word values and of memory words. -/
def Config.memWords : Nat := 59049

/-- The default of the parameter `haltAdvancesPointers` (R10, R87; 92_eei_decisions.md D2). The parameter itself is a field of
State, so that a statement about every state holds for both of its values (log entry 4). -/
def Config.haltAdvancesPointersDefault : Bool := true

end Sys2Proof
end

