-- ==== Sys2Proof/Syntax.lean ====
section
/-! DEFINITION. The instructions: one constructor per row of spec/opcode_table.json (30_encoding.md R55, R57). -/

namespace Sys2Proof

/-- Every operand is implicit (R60, R61), so the eight opcodes carry none. The default row keeps the word it was read from, so
that encoding is exact (log entry 20); its meaning does not look at it. -/
inductive Instr where
  /-- `!`, word 33 (R117). -/
  | halt
  /-- `*`, word 42 (R105). -/
  | ldd
  /-- `>`, word 62 (R102). -/
  | rot
  /-- `^`, word 94 (R106). -/
  | jmp
  /-- `_`, word 95 (R118). -/
  | nop
  /-- Word 123 (R112). -/
  | out
  /-- `|`, word 124 (R103). -/
  | sub
  /-- Word 125 (R113). -/
  | inp
  /-- Any other word (R57, R119). -/
  | nopDefault (word : Word)
deriving DecidableEq, Repr

end Sys2Proof
end

