-- ==== Sys2Proof/WellFormed.lean ====
section
/-! DEFINITION. Which terms of Instr are instructions of the machine. -/

namespace Sys2Proof

/-- The eight codes of the opcode map (R55). -/
def opcodes : List Word := [33, 42, 62, 94, 95, 123, 124, 125]

/-- The default row is the row of the words that are none of the eight codes (R57): a default no-op that carries one of the eight
is no instruction. Every other term is well formed. -/
def WellFormed : Instr → Bool
  | .halt => true
  | .ldd => true
  | .rot => true
  | .jmp => true
  | .nop => true
  | .out => true
  | .sub => true
  | .inp => true
  | .nopDefault w => !opcodes.contains w

end Sys2Proof
end

