-- ==== Sys2Proof/Decode.lean ====
section
/-! DEFINITION. Decoding and encoding (spec 30_encoding.md, rules R52 to R58), and the 16-bit stored form (R9). -/

namespace Sys2Proof

/-- The 16-bit stored form of a word: its value as an unsigned binary number (R9). -/
def storedForm (w : Word) : BitVec 16 := BitVec.ofNat 16 w.val

/-- The word a stored form stands for; the 6487 codes 59049..65535 stand for none (R9, I6). -/
def ofStored (b : BitVec 16) : Option Word :=
  if h : b.toNat < 59049 then some ⟨b.toNat, h⟩ else none

/-- The decode function, total on all words (R56). It compares the whole word for equality (R54) and never refuses (R58). -/
def decode (w : Word) : Instr :=
  if w.val = 33 then .halt
  else if w.val = 42 then .ldd
  else if w.val = 62 then .rot
  else if w.val = 94 then .jmp
  else if w.val = 95 then .nop
  else if w.val = 123 then .out
  else if w.val = 124 then .sub
  else if w.val = 125 then .inp
  else .nopDefault w

/-- Why a stored code is no instruction. -/
inductive DecodeRefusal where
  /-- The code is one of 59049..65535, which stand for no word (R9, I6). Raised by `decodeStored`; safe: no memory word holds such
  a code. -/
  | notAWord
deriving DecidableEq, Repr

/-- Decoding of any 16-bit code: a word decodes by `decode`, any other code is refused by name. -/
def decodeStored (b : BitVec 16) : Except DecodeRefusal Instr :=
  match ofStored b with
  | some w => .ok (decode w)
  | none => .error .notAWord

/-- The instruction read from the opcode table's bits `w`: an instruction is one word (R52) whose stored form is these bits. The
bits above `nbits` are zero, so `nbits` itself decides nothing. -/
def decodeTableWord (_nbits w : Nat) : Option Instr :=
  if w < 65536 then (decodeStored (BitVec.ofNat 16 w)).toOption else none

/-- The word of a well-formed instruction (R55, R57). -/
def encode : Instr → Word
  | .halt => 33
  | .ldd => 42
  | .rot => 62
  | .jmp => 94
  | .nop => 95
  | .out => 123
  | .sub => 124
  | .inp => 125
  | .nopDefault w => w

/-- The `match` column of the opcode table's row (R54). -/
def rowMatch : Instr → BitVec 16
  | .halt => 0x0021
  | .ldd => 0x002A
  | .rot => 0x003E
  | .jmp => 0x005E
  | .nop => 0x005F
  | .out => 0x007B
  | .sub => 0x007C
  | .inp => 0x007D
  | .nopDefault _ => 0x0000

/-- The `mask` column of the opcode table's row: the whole word for an opcode, nothing for the default row (R54). -/
def rowMask : Instr → BitVec 16
  | .halt => 0xFFFF
  | .ldd => 0xFFFF
  | .rot => 0xFFFF
  | .jmp => 0xFFFF
  | .nop => 0xFFFF
  | .out => 0xFFFF
  | .sub => 0xFFFF
  | .inp => 0xFFFF
  | .nopDefault _ => 0x0000

end Sys2Proof
end

