-- ==== Sys2Proof/Machine/State.lean ====
section
/-! DEFINITION. The machine's state, its outcomes' reasons, and the state after reset (spec 10_state.md, 41_step_cycle.md R94,
44_io.md R109 to R111). -/

namespace Sys2Proof.Machine

/-- Memory as (address, word) pairs. Canonical (`Memory.wf`): addresses strictly rising, no pair holding what an unlisted address
reads as. A cell is a whole word, since memory is word-addressed and has no bytes (R34; log entry 3). -/
abbrev Memory := List (Word × Word)

/-- The host's answer to one input request (R28, R109). -/
inductive InAnswer where
  /-- A byte: `in_eof = 0`. -/
  | byte (b : Byte)
  /-- End of input: `in_eof = 1`. -/
  | eof
deriving DecidableEq, Repr

/-- What the host does with input requests once the queued answers are used up (R111). -/
inductive Afterwards where
  /-- Every further request is answered with end of input: the usual finite-sequence instance (R111). -/
  | eof
  /-- No further request is ever answered: the core hangs in WAIT_IN (R111; 93_implementation_defined.md I3). -/
  | silent
deriving DecidableEq, Repr

/-- Which output bytes the host takes (R110, R111). -/
inductive Takes where
  /-- The host takes every byte, its duty under R111. -/
  | always
  /-- The host takes this many more bytes and then none: the core hangs in WAIT_OUT (R111, I3). -/
  | atMost (n : Nat)
deriving DecidableEq, Repr

/-- The I/O adapter as the core meets it at its two ports (R28, R32): plain data that the step reads. All of it is the host's, none
of it the core's (R32); the representation is the model's own (log entries 5 and 6). -/
structure Adapter where
  /-- The answers the host has ready, in request order (`inputStream`, R10). -/
  answers : List InAnswer
  /-- What follows them. -/
  afterwards : Afterwards
  /-- How each input request so far was answered, oldest first (R93). -/
  answered : List InAnswer
  /-- The output sequence: the bytes taken so far, oldest first (R93, R110). -/
  taken : List Byte
  /-- Whether the host takes the next byte. -/
  takes : Takes
deriving DecidableEq, Repr

/-- Where the control FSM stands (R94). `ready` is between steps: IDLE while `halted` is false and HALTED while it is true, so the
flag has one home; `fsmState` gives the spec's five names (log entry 9). -/
inductive Phase where
  /-- RESET: `rst` is held (R94, R135). -/
  | reset
  /-- Between steps: IDLE or HALTED (R94). -/
  | ready
  /-- WAIT_IN: `in_req` is raised and waits for `in_ack` (R94, R109). -/
  | waitIn
  /-- WAIT_OUT: `out_req` is raised with this byte on `out_byte` and waits for `out_ack` (R94, R110). -/
  | waitOut (b : Byte)
deriving DecidableEq, Repr

/-- Everything the spec gives the machine (R16 to R32, R94), with its parameters (R10) and its adapter. -/
structure State where
  /-- `A`, the accumulator (R16). -/
  a : Word
  /-- `C`, the code pointer: the program counter (R17, R99). -/
  c : Word
  /-- `D`, the data pointer (R18). -/
  d : Word
  /-- `halted`, the terminal flag (R21). -/
  halted : Bool
  /-- `hit_eof`, the sticky end-of-input flag (R22). -/
  hitEof : Bool
  /-- `memory[0..N−1]` (R25). -/
  mem : Memory
  /-- The control FSM (R94). -/
  phase : Phase
  /-- The parameter `haltAdvancesPointers` (R10, R87); no step and no tick changes it (log entry 4). -/
  haltAdvancesPointers : Bool
  /-- The I/O adapter (R28). -/
  adapter : Adapter
deriving DecidableEq, Repr

/-- Why the machine stops with a fault. NEVER: "The core raises no synchronous exception" (R120), so there is no constructor, and
that no step faults holds by the type (log entry 22). -/
inductive Fault : Type
deriving DecidableEq, Repr

/-- Why the model gives no meaning. -/
inductive Refusal where
  /-- An instruction without a meaning in this model. Raised by no arm: every instruction has its meaning. Safe. -/
  | notModelled (mnemonic : String)
  /-- A load-port cycle with `load_addr` or `load_data` ≥ 59049 (R137; 92_eei_decisions.md D12). Raised by `tick` under `rst`, by no
  instruction. The spec itself calls this "toward proving": UNSAFE for a host that does so (log entry 11). -/
  | loadNotAWord
deriving DecidableEq, Repr

/-- The adapter at reset: no input queued, then end of input for ever, every output byte taken: the instance of R111 with the empty
input. DESIGN CHOICE, log entries 5 and 6; unsafe for a statement that rests on it. -/
def Adapter.atReset : Adapter where
  answers := []
  afterwards := .eof
  answered := []
  taken := []
  takes := .always

/-- The machine right after reset (R30, R135, R136, R138): registers 0, flags false, the FSM in IDLE, and the memory image of the
empty program (R68), nothing listed (DESIGN CHOICE, log entry 2). -/
def State.reset : State where
  a := 0
  c := 0
  d := 0
  halted := false
  hitEof := false
  mem := []
  phase := .ready
  haltAdvancesPointers := Config.haltAdvancesPointersDefault
  adapter := Adapter.atReset

end Sys2Proof.Machine
end

