-- ==== Sys2Proof/Machine/Ops.lean ====
section
/-! DEFINITION. The named operations over memory, registers and the adapter that every meaning is built from. The spec describes no
exception, trap or return (60_exceptions.md R120, R124, R125), so there is no operation that takes one. -/

namespace Sys2Proof.Machine

/-! Memory (spec 20_memory.md). -/

/-- What an unlisted address reads as: 0, the Loader's padding (R42, R68). DESIGN CHOICE, log entry 2; unsafe for a statement about
`State.reset` alone, since any image is a memory of this form. -/
def Memory.unlisted : Word := 0

/-- The canonical form: addresses strictly rising, and no pair that holds what an unlisted address reads as. -/
abbrev Memory.wf (m : Memory) : Prop :=
  m.Pairwise (fun p q => p.1 < q.1) ∧ m.all (fun p => decide (p.2 ≠ Memory.unlisted)) = true

/-- `MemRead(a, 1)` (R13, R37): no address faults (R33) and no read has a side effect (R39). -/
def Memory.read : Memory → Word → Word
  | [], _ => Memory.unlisted
  | (b, v) :: rest, a => if b = a then v else Memory.read rest a

/-- The memory without an entry for `a`. -/
def Memory.erase (m : Memory) (a : Word) : Memory := m.filter fun p => p.1 ≠ a

/-- The memory with the entry `(a, v)` before the first higher address. -/
def Memory.insert : Memory → Word → Word → Memory
  | [], a, v => [(a, v)]
  | (b, w) :: rest, a, v => if a < b then (a, v) :: (b, w) :: rest else (b, w) :: Memory.insert rest a v

/-- `MemWrite(a, 1, v)` (R13, R37), keeping the canonical form. -/
def Memory.write (m : Memory) (a v : Word) : Memory :=
  if v = Memory.unlisted then Memory.erase m a else Memory.insert (Memory.erase m a) a v

/-! One setter per field of the state. -/

/-- `A <- v` (R13). -/
def setA (v : Word) (s : State) : State := { s with a := v }
/-- `C <- v` (R13). -/
def setC (v : Word) (s : State) : State := { s with c := v }
/-- `D <- v` (R13). -/
def setD (v : Word) (s : State) : State := { s with d := v }
/-- The FSM moves to `p` (R95). -/
def setPhase (p : Phase) (s : State) : State := { s with phase := p }
/-- Memory becomes `m`. -/
def setMem (m : Memory) (s : State) : State := { s with mem := m }
/-- The adapter becomes `ad`. -/
def setAdapter (ad : Adapter) (s : State) : State := { s with adapter := ad }

/-! Pointers (spec 41_step_cycle.md). -/

/-- `(x + 1) mod N` (R86, R100). -/
def incr (x : Word) : Word := ⟨(x.val + 1) % 59049, Nat.mod_lt _ (by decide)⟩

/-- The pointer advance, applied to the values as dispatch left them (R86). -/
def advance (s : State) : State := { s with c := incr s.c, d := incr s.d }

/-- The halting step's pointer advance: only when `haltAdvancesPointers` (R87). -/
def advanceOnHalt (s : State) : State := if s.haltAdvancesPointers then advance s else s

/-- `A <- r; MemWrite(D, 1, r)` with the `D` of the start of the step (R101). -/
def storeResult (r : Word) (s : State) : State := { s with a := r, mem := s.mem.write s.d r }

/-! The adapter's two capabilities (spec 44_io.md). -/

/-- One input request answered `ans` enters the log (R93, R109). -/
def Adapter.logAnswer (ans : InAnswer) (ad : Adapter) : Adapter := { ad with answered := ad.answered ++ [ans] }

/-- One byte taken joins the output sequence (R110). -/
def Adapter.logByte (b : Byte) (ad : Adapter) : Adapter := { ad with taken := ad.taken ++ [b] }

/-- `InRead()` against the host's script: the answer and the adapter after it, or nothing while the host is silent (R111). -/
def Adapter.readByte (ad : Adapter) : Option (InAnswer × Adapter) :=
  match ad.answers with
  | ans :: rest => some (ans, Adapter.logAnswer ans { ad with answers := rest })
  | [] =>
    match ad.afterwards with
    | .eof => some (.eof, Adapter.logAnswer .eof ad)
    | .silent => none

/-- `OutWrite(b)` against the host's script: the adapter once it has taken the byte, or nothing while it takes none (R111). -/
def Adapter.writeByte (b : Byte) (ad : Adapter) : Option Adapter :=
  match ad.takes with
  | .always => some (Adapter.logByte b ad)
  | .atMost 0 => none
  | .atMost (n + 1) => some (Adapter.logByte b { ad with takes := .atMost n })

end Sys2Proof.Machine
end

