-- ==== Sys2Proof/Machine/Operands.lean ====
section
/-! DEFINITION. The operand forms: the instruction word, the one data operand, and the bytes of the two ports. -/

namespace Sys2Proof.Machine

/-- `instr = memory[C]` (R84, R85). -/
def instrWord (s : State) : Word := s.mem.read s.c

/-- The instruction a step dispatches on (R52, R56). -/
def fetchInstr (s : State) : Instr := decode (instrWord s)

/-- `data = memory[D]`: the one addressing mode, indirect through `D` (R85, R108). -/
def data (s : State) : Word := s.mem.read s.d

/-- `zext_16(b)`: the byte taken as a word of the same value (R13, R36). -/
def zextByte (b : Byte) : Word := ⟨b.toNat, by have := b.isLt; omega⟩

/-- `A mod 256` as a byte (R36, R112). -/
def lowByte (w : Word) : Byte := BitVec.ofNat 8 w.val

end Sys2Proof.Machine
end

