-- ==== Sys2Proof/Machine/Flags.lean ====
section
/-! DEFINITION. The two status flags and every write to them. There is no condition code, carry, borrow or overflow flag (R23), and no
instruction clears a flag (R21, R22). -/

namespace Sys2Proof.Machine

/-- `halted <- true` (R21). -/
def setHalted (s : State) : State := { s with halted := true }

/-- `hit_eof <- true` (R22). -/
def setHitEof (s : State) : State := { s with hitEof := true }

/-- What an input answer writes: a byte goes to `A` and leaves `hit_eof`; end of input puts the sentinel in `A` and sets `hit_eof`
(R113, R115). -/
def takeAnswer (ans : InAnswer) (s : State) : State :=
  match ans with
  | .byte b => setA (zextByte b) s
  | .eof => setHitEof (setA sentinel s)

/-- The halting step: `halted <- true`, and the pointers by R87 (R95, R112, R117). -/
def haltStep (s : State) : State := advanceOnHalt (setHalted s)

end Sys2Proof.Machine
end

