-- ==== Sys2Proof/Machine/Handshake.lean ====
section
/-! DEFINITION. The two handshakes with the I/O adapter, shared by the instructions, the step and the FSM (spec 44_io.md R109 to R111,
41_step_cycle.md R95). -/

namespace Sys2Proof.Machine

/-- The acknowledging transition of an `IN` step: the answer's writes and the pointer advance commit together (R88, R95). -/
def commitIn (ans : InAnswer) (ad : Adapter) (s : State) : State :=
  advance (takeAnswer ans (setPhase .ready (setAdapter ad s)))

/-- The acknowledging transition of an `OUT` step (R88, R95). -/
def commitOut (ad : Adapter) (s : State) : State :=
  advance (setPhase .ready (setAdapter ad s))

/-- An input request put to the host: it answers and the step commits, or the core stands in WAIT_IN with all else as before the
step (R95, R109, R111). -/
def requestIn (s : State) : State :=
  match s.adapter.readByte with
  | some (ans, ad) => commitIn ans ad s
  | none => setPhase .waitIn s

/-- An output byte offered to the host: it takes the byte and the step commits, or the core stands in WAIT_OUT with all else as
before the step (R95, R110, R111). -/
def offerOut (b : Byte) (s : State) : State :=
  match s.adapter.writeByte b with
  | some ad => commitOut ad s
  | none => setPhase (.waitOut b) s

end Sys2Proof.Machine
end

