-- ==== Sys2Proof/Machine/Cycle.lean ====
section
/-! DEFINITION. One step around dispatch (spec 41_step_cycle.md R84, R89, R94, R97), and where an instruction is placed to be fetched. -/

namespace Sys2Proof.Machine

/-- One step request, with `run` for the dispatch. Between steps a halted machine does nothing (R89) and a running one fetches and
dispatches (R84). In RESET a step request is ignored, as in every busy state (R97; log entry 8). In WAIT_IN and WAIT_OUT the pending
handshake is put to the host again, and nothing changes until it acts (R95; log entry 7). -/
def stepWith (run : Instr → State → Host.Outcome State Fault Refusal) (s : State) : Host.Outcome State Fault Refusal :=
  match s.phase with
  | .reset => .next s
  | .waitIn => .next (requestIn s)
  | .waitOut b => .next (offerOut b s)
  | .ready => if s.halted then .next s else run (fetchInstr s) s

/-- The state with the stored code `code` as the next instruction: the word stands at `C`, and the machine is between steps and
running, which the fetch needs (log entry 18). A code that is no word cannot stand in memory (R9), and changes nothing. -/
def placeAtFetch (code : Nat) (s : State) : State :=
  match (if code < 65536 then ofStored (BitVec.ofNat 16 code) else none) with
  | some w => { s with mem := s.mem.write s.c w, phase := .ready, halted := false }
  | none => s

end Sys2Proof.Machine
end

