-- ==== Sys2Proof/Machine/Alu.lean ====
section
/-! DEFINITION. The ternary arithmetic unit (spec 40_ternary_alu.md, rules R69 to R83). UNVERIFIED, log entry 14: the source calls its
two formulas believed, and the spec takes them as normative (R74). -/

namespace Sys2Proof.Machine

/-- `trit(x, i) = floor(x / 3^i) mod 3`, digit 0 least significant (R12). -/
def trit (x : Word) (i : Nat) : Trit := ⟨x.val / 3 ^ i % 3, Nat.mod_lt _ (by decide)⟩

/-- `fromTrits(t9..t0) = Σ t_i · 3^i` (R12). -/
def fromTrits (t : Fin 10 → Trit) : Word :=
  ⟨(t 0).val + (t 1).val * 3 + (t 2).val * 9 + (t 3).val * 27 + (t 4).val * 81 + (t 5).val * 243 + (t 6).val * 729
    + (t 7).val * 2187 + (t 8).val * 6561 + (t 9).val * 19683, by
    have h0 := (t 0).isLt; have h1 := (t 1).isLt; have h2 := (t 2).isLt; have h3 := (t 3).isLt; have h4 := (t 4).isLt
    have h5 := (t 5).isLt; have h6 := (t 6).isLt; have h7 := (t 7).isLt; have h8 := (t 8).isLt; have h9 := (t 9).isLt
    omega⟩

/-- `rotate(x) = floor(x / 3) + (x mod 3) · 3^9`: one trit toward the least significant end (R76). -/
def rotate (x : Word) : Word := ⟨x.val / 3 + x.val % 3 * 19683, by omega⟩

/-- One lane of the subtraction: `(x_i − y_i) mod 3`, no borrow in or out (R78, R79). -/
def subTrit (x y : Trit) : Trit := x - y

/-- `subtract_digitwise(x, y) = Σ ((trit(x, i) − trit(y, i)) mod 3) · 3^i` (R78). -/
def subtractDigitwise (x y : Word) : Word := fromTrits fun i => subTrit (trit x i.val) (trit y i.val)

/-- The unit's operation select (R71). -/
inductive AluOp where
  | rot
  | sub
deriving DecidableEq, Repr

/-- The unit's interface: the result depends on `op`, `x` and `y` alone, and ROT ignores `y` (R71). -/
def alu (op : AluOp) (x y : Word) : Word :=
  match op with
  | .rot => rotate x
  | .sub => subtractDigitwise x y

end Sys2Proof.Machine
end

