-- ==== Sys2Proof/Machine/Arithmetic.lean ====
section
/-! DEFINITION. The instructions that use the ternary arithmetic unit (spec 42_arithmetic.md). -/

namespace Sys2Proof.Machine

/-- ROT (R102): `r <- rotate(data); A <- r; MemWrite(D, 1, r)`, then the pointer advance. -/
def execRot (s : State) : Host.Outcome State Fault Refusal :=
  .next (advance (storeResult (alu .rot (data s) s.a) s))

/-- SUB (R103): `r <- subtract_digitwise(A, data); A <- r; MemWrite(D, 1, r)`, then the pointer advance. -/
def execSub (s : State) : Host.Outcome State Fault Refusal :=
  .next (advance (storeResult (alu .sub s.a (data s)) s))

end Sys2Proof.Machine
end

