-- ==== Sys2Proof/Machine/HaltNop.lean ====
section
/-! DEFINITION. Halt and the two kinds of no-op (spec 45_halt_nop.md). -/

namespace Sys2Proof.Machine

/-- HALT (R117): `halted <- true`, and the pointers by R87. -/
def execHalt (s : State) : Host.Outcome State Fault Refusal :=
  .next (haltStep s)

/-- NOP (R118): the pointer advance alone. -/
def execNop (s : State) : Host.Outcome State Fault Refusal :=
  .next (advance s)

/-- NOP_DEFAULT (R119): any other word behaves as NOP, whatever its value. -/
def execNopDefault (_word : Word) (s : State) : Host.Outcome State Fault Refusal :=
  .next (advance s)

end Sys2Proof.Machine
end

