-- ==== Sys2Proof/Machine/InputOutput.lean ====
section
/-! DEFINITION. The instructions that touch the I/O adapter (spec 44_io.md). -/

namespace Sys2Proof.Machine

/-- OUT (R112): with `A = N−1` the machine halts and writes nothing; otherwise the byte `A mod 256` goes to the host. -/
def execOut (s : State) : Host.Outcome State Fault Refusal :=
  if s.a = sentinel then .next (haltStep s) else .next (offerOut (lowByte s.a) s)

/-- IN (R113): one input request, whatever `hit_eof` says (R115). -/
def execInp (s : State) : Host.Outcome State Fault Refusal :=
  .next (requestIn s)

end Sys2Proof.Machine
end

