-- ==== Sys2Proof/Machine/PointerControl.lean ====
section
/-! DEFINITION. The instructions that load a pointer from memory (spec 43_pointer_control.md). -/

namespace Sys2Proof.Machine

/-- LDD (R105): `D <- data`, then the pointer advance, so `D` ends as `(data + 1) mod N`. -/
def execLdd (s : State) : Host.Outcome State Fault Refusal :=
  .next (advance (setD (data s) s))

/-- JMP (R106): `C <- data`, then the pointer advance, so `C` ends as `(data + 1) mod N`. -/
def execJmp (s : State) : Host.Outcome State Fault Refusal :=
  .next (advance (setC (data s) s))

end Sys2Proof.Machine
end

