-- ==== Sys2Proof/Machine/Dispatch.lean ====
section
/-! DEFINITION. Dispatch: one arm per instruction (spec 41_step_cycle.md R84). -/

namespace Sys2Proof.Machine

/-- The meaning of each instruction. -/
def exec (i : Instr) (s : State) : Host.Outcome State Fault Refusal :=
  match i with
  | .halt => Sys2Proof.Machine.execHalt s
  | .ldd => Sys2Proof.Machine.execLdd s
  | .rot => Sys2Proof.Machine.execRot s
  | .jmp => Sys2Proof.Machine.execJmp s
  | .nop => Sys2Proof.Machine.execNop s
  | .out => Sys2Proof.Machine.execOut s
  | .sub => Sys2Proof.Machine.execSub s
  | .inp => Sys2Proof.Machine.execInp s
  | .nopDefault w => Sys2Proof.Machine.execNopDefault w s

end Sys2Proof.Machine
end

