-- ==== Sys2Proof/Machine/Step.lean ====
section
/-! DEFINITION. The step: the source's `step()` (spec 41_step_cycle.md R84, R89). -/

namespace Sys2Proof.Machine

/-- One step of the machine (R84, R144): one atomic transition (log entry 7). -/
def step (s : State) : Host.Outcome State Fault Refusal := stepWith exec s

/-- The value `step()` returns, read from the state after the step (R90). -/
def reportsHalted (s : State) : Bool := s.halted

/-- `s` with the instruction whose bits are `w` stored where the next step fetches. -/
def State.withFetchWord (s : State) (_nbits w : Nat) : State := placeAtFetch w s

end Sys2Proof.Machine
end

