-- ==== Sys2Proof/Machine/Fsm.lean ====
section
/-! DEFINITION. The core at its ports: the five-state control FSM (spec 41_step_cycle.md R94 to R98), the port handshakes
(44_io.md R109, R110), reset and the load port (70_reset_and_hazards.md R135 to R138), the status outputs and the observe port
(10_state.md R27, R29). `tick` is one FSM transition under given port inputs; `step` is a whole step. -/

namespace Sys2Proof.Machine

/-- The FSM states by the spec's names (R94). -/
inductive Fsm where
  | reset
  | idle
  | waitIn
  | waitOut
  | halted
deriving DecidableEq, Repr

/-- The FSM state (R94): between steps it is HALTED when `halted` is true and IDLE otherwise. -/
def fsmState (s : State) : Fsm :=
  match s.phase with
  | .reset => .reset
  | .waitIn => .waitIn
  | .waitOut _ => .waitOut
  | .ready => if s.halted then .halted else .idle

/-- The input ports (R27). -/
structure PortsIn where
  rst : Bool
  stepReq : Bool
  run : Bool
  inAck : Bool
  inEof : Bool
  inByte : Byte
  outAck : Bool
  loadEn : Bool
  loadAddr : BitVec 16
  loadData : BitVec 16
  obsSel : BitVec 3
  obsAddr : BitVec 16
deriving DecidableEq, Repr

/-- No request, no acknowledgement, no reset: every port low. -/
def PortsIn.quiet : PortsIn where
  rst := false
  stepReq := false
  run := false
  inAck := false
  inEof := false
  inByte := 0
  outAck := false
  loadEn := false
  loadAddr := 0
  loadData := 0
  obsSel := 0
  obsAddr := 0

/-- A step is asked for (R97). -/
def PortsIn.start (p : PortsIn) : Bool := p.stepReq || p.run

/-- The answer an `in_ack` carries (R28, R109). -/
def PortsIn.answer (p : PortsIn) : InAnswer := if p.inEof then .eof else .byte p.inByte

/-- What the load port does in a cycle with `rst = 1`: the memory after it, or nothing where the address or the data is no word
(R137). -/
def loadPort (p : PortsIn) (m : Memory) : Option Memory :=
  if p.loadEn then
    match ofStored p.loadAddr, ofStored p.loadData with
    | some a, some v => some (m.write a v)
    | _, _ => none
  else some m

/-- The reset values of registers and flags, and the FSM in RESET; memory, the parameter and the host's own record stay (R30, R135).
A pending request or byte is withdrawn with the phase: nothing enters the adapter's record. -/
def resetCore (s : State) : State :=
  { s with a := 0, c := 0, d := 0, halted := false, hitEof := false, phase := .reset }

/-- A cycle with `rst = 1`, from any FSM state (R135), with its load (R137; log entries 11 and 12). -/
def resetTick (p : PortsIn) (s : State) : Host.Outcome State Fault Refusal :=
  match loadPort p s.mem with
  | some m => .next (setMem m (resetCore s))
  | none => .refused .loadNotAWord

/-- A step starts in IDLE (R95): IN and a non-halting OUT raise their request and change nothing else; every other instruction is a
whole step at once. -/
def startStep (s : State) : Host.Outcome State Fault Refusal :=
  match fetchInstr s with
  | .inp => .next (setPhase .waitIn s)
  | .out => if s.a = sentinel then .next (haltStep s) else .next (setPhase (.waitOut (lowByte s.a)) s)
  | .halt => exec .halt s
  | .ldd => exec .ldd s
  | .rot => exec .rot s
  | .jmp => exec .jmp s
  | .nop => exec .nop s
  | .sub => exec .sub s
  | .nopDefault w => exec (.nopDefault w) s

/-- One FSM transition (R95, R97, R98, R109, R110, R138). A handshake enters the adapter's record (`answered`, `taken`); the adapter's
script (`answers`, `takes`) plays no part here, since the ports carry the host's behaviour. -/
def tick (p : PortsIn) (s : State) : Host.Outcome State Fault Refusal :=
  if p.rst then resetTick p s
  else
    match s.phase with
    | .reset => .next (setPhase .ready s)
    | .ready => if s.halted then .next s else if p.start then startStep s else .next s
    | .waitIn => if p.inAck then .next (commitIn p.answer (s.adapter.logAnswer p.answer) s) else .next s
    | .waitOut b => if p.outAck then .next (commitOut (s.adapter.logByte b) s) else .next s

/-- One tick for each entry, stopping at the first refusal. -/
def ticks : List PortsIn → State → Host.Outcome State Fault Refusal
  | [], s => .next s
  | p :: ps, s =>
    match tick p s with
    | .next t => ticks ps t
    | .fault r => .fault r
    | .refused r => .refused r

/-! The outputs. -/

/-- `busy`: 1 in RESET, WAIT_IN and WAIT_OUT (R94). -/
def busy (s : State) : Bool :=
  match fsmState s with
  | .reset => true
  | .idle => false
  | .waitIn => true
  | .waitOut => true
  | .halted => false

/-- The free values of the outputs: what `obs_data` and `out_byte` show where the spec defines no value (R29, I8; log entry 10). An
argument of `portsOut`, which nothing constrains: a statement about the outputs holds for every one. -/
structure Undefined where
  obsData : BitVec 16
  outByte : Byte
deriving DecidableEq, Repr

/-- The observe port (R29): `free` is what it shows where no value is defined. -/
def obsData (free : BitVec 16) (sel : BitVec 3) (addr : BitVec 16) (s : State) : BitVec 16 :=
  if busy s then free
  else
    match sel.toNat with
    | 0 => storedForm s.a
    | 1 => storedForm s.c
    | 2 => storedForm s.d
    | 3 => if s.halted then 1 else 0
    | 4 => if s.hitEof then 1 else 0
    | 5 =>
      match ofStored addr with
      | some a => storedForm (s.mem.read a)
      | none => free
    | _ => free

/-- The output ports (R27). -/
structure PortsOut where
  halted : Bool
  hitEof : Bool
  busy : Bool
  inReq : Bool
  outReq : Bool
  outByte : Byte
  obsData : BitVec 16
deriving DecidableEq, Repr

/-- The outputs in a state: `in_req` is raised in WAIT_IN (R109), `out_req` and its byte in WAIT_OUT (R110). -/
def portsOut (free : Undefined) (p : PortsIn) (s : State) : PortsOut where
  halted := s.halted
  hitEof := s.hitEof
  busy := busy s
  inReq := match s.phase with | .waitIn => true | .waitOut _ => false | .ready => false | .reset => false
  outReq := match s.phase with | .waitOut _ => true | .waitIn => false | .ready => false | .reset => false
  outByte := match s.phase with | .waitOut b => b | .waitIn => free.outByte | .ready => free.outByte | .reset => free.outByte
  obsData := obsData free.obsData p.obsSel p.obsAddr s

end Sys2Proof.Machine
end

