-- ==== Sys2Proof/Machine/Loader.lean ====
section
/-! DEFINITION. The Loader at the boundary of the core (spec 30_encoding.md R63 to R68): from source text to memory image. It is an
external collaborator (R5); no step calls it (R68, R141). Log entry 15. -/

namespace Sys2Proof.Machine

/-- The Loader's errors (R66). They happen before the core runs and give no image (R121). -/
inductive LoadError where
  /-- A character outside a comment that is no opcode character, no whitespace and no opening parenthesis. -/
  | badCharacter (c : Char)
  /-- An opening parenthesis with no later closing one (R64). -/
  | unterminatedComment
  /-- More opcode characters than memory words, with both counts. -/
  | capacity (found limit : Nat)
deriving DecidableEq, Repr

/-- The word an opcode character becomes: the character's code (R63). -/
def opcodeOfChar (c : Char) : Option Word := opcodes.find? fun w => w.val == c.toNat

/-- Space, horizontal tab, line feed, vertical tab, form feed and carriage return (R65). -/
def isLoaderSpace (c : Char) : Bool := [0x20, 0x09, 0x0A, 0x0B, 0x0C, 0x0D].contains c.toNat

/-- The opcode words of a text in order; the flag says whether the text begins inside a comment. Comments do not nest (R64). -/
def scan : Bool → List Char → Except LoadError (List Word)
  | false, [] => .ok []
  | true, [] => .error .unterminatedComment
  | true, c :: rest => if c = ')' then scan false rest else scan true rest
  | false, c :: rest =>
    if c = '(' then scan true rest
    else if isLoaderSpace c then scan false rest
    else
      match opcodeOfChar c with
      | none => .error (.badCharacter c)
      | some w =>
        match scan false rest with
        | .ok ws => .ok (w :: ws)
        | .error e => .error e

/-- The Loader for a memory of `limit` words: the program's words, or one error (R66). -/
def loadWithin (limit : Nat) (text : List Char) : Except LoadError (List Word) :=
  match scan false text with
  | .ok ws => if ws.length ≤ limit then .ok ws else .error (.capacity ws.length limit)
  | .error e => .error e

/-- The Loader (R68). -/
def load (text : List Char) : Except LoadError (List Word) := loadWithin Config.memWords text

/-- The image of a program from address `k` on: its words at consecutive addresses, 0 elsewhere (R42, R63, R68). -/
def imageFrom : Nat → List Word → Memory
  | _, [] => []
  | k, w :: ws =>
    if h : k < 59049 then
      if w = Memory.unlisted then imageFrom (k + 1) ws else (⟨k, h⟩, w) :: imageFrom (k + 1) ws
    else []

/-- The machine at its first step with a given memory image (R139, R140; log entry 18). -/
def boot (image : Memory) : State := setMem image State.reset

/-- The machine at its first step with a program text, or the Loader's error and no machine (R66, R134). -/
def bootText (text : List Char) : Except LoadError State :=
  match load text with
  | .ok ws => .ok (boot (imageFrom 0 ws))
  | .error e => .error e

end Sys2Proof.Machine
end

