-- ==== Sys2Proof/Machine/Run.lean ====
section
/-! DEFINITION. `run()` (spec 41_step_cycle.md R91) under fuel. -/

namespace Sys2Proof.Machine

/-- How a fuelled run ends. Running out of fuel carries no state, so that a run that has not halted never looks like one that has
(93_implementation_defined.md I4). -/
inductive RunEnd where
  /-- A step returned true; this is the state it left (R91, R93). -/
  | halted (s : State)
  /-- The fuel ran out first: nothing is said about halting. -/
  | outOfFuel
  /-- A step faulted: never, as `Fault` has no constructor (R120). -/
  | faulted (r : Fault)
  /-- A step was refused: never, as no instruction is refused. -/
  | refused (r : Refusal)
deriving DecidableEq, Repr

/-- `run()` repeats `step()` until it returns true (R91), here for at most `fuel` steps. -/
def runFor : Nat → State → RunEnd
  | 0, _ => .outOfFuel
  | fuel + 1, s =>
    match step s with
    | .next t => if reportsHalted t then .halted t else runFor fuel t
    | .fault r => .faulted r
    | .refused r => .refused r

/-- `k` steps, stopping at the first fault or refusal. -/
def steps : Nat → State → Host.Outcome State Fault Refusal
  | 0, s => .next s
  | k + 1, s =>
    match step s with
    | .next t => steps k t
    | .fault r => .fault r
    | .refused r => .refused r

end Sys2Proof.Machine
end

