-- ==== Sys2Proof/Safety.lean ====
section
/-! DEFINITION. The terms claims use: what two states share, which states cohere, which hosts answer, and the step's pseudocode over plain
numbers (spec 41_step_cycle.md R84) that the machine is held against. -/

namespace Sys2Proof.Machine

/-- The next state of an outcome, if it has one. -/
def nextOf (o : Host.Outcome State Fault Refusal) : Option State :=
  match o with
  | .next s => some s
  | .fault _ => none
  | .refused _ => none

/-- Every word of memory reads the same. -/
def SameMemory (s t : State) : Prop := ∀ x : Word, t.mem.read x = s.mem.read x

/-- Every word of memory but the one at `x` reads the same. -/
def SameMemoryBut (x : Word) (s t : State) : Prop := ∀ y : Word, y ≠ x → t.mem.read y = s.mem.read y

/-- The parts no instruction but IN and OUT touches: the flags, the FSM, the adapter and the parameter. -/
def SameControl (s t : State) : Prop :=
  t.halted = s.halted ∧ t.hitEof = s.hitEof ∧ t.phase = s.phase ∧ t.adapter = s.adapter ∧
    t.haltAdvancesPointers = s.haltAdvancesPointers

/-- Both pointers have advanced from `c` and `d` (R86). -/
def Advanced (c d : Word) (t : State) : Prop :=
  t.c.val = (c.val + 1) % 59049 ∧ t.d.val = (d.val + 1) % 59049

/-- The pointers after a halting step from `s` (R87). -/
def HaltPointers (s t : State) : Prop :=
  if s.haltAdvancesPointers then Advanced s.c s.d t else t.c = s.c ∧ t.d = s.d

/-- Two states agree on the core and on the host's record of both ports, whatever the adapter's script still holds. -/
def SameCoreAndRecord (s t : State) : Prop :=
  setAdapter s.adapter t = s ∧ t.adapter.answered = s.adapter.answered ∧ t.adapter.taken = s.adapter.taken

/-- The states the FSM can be in (R94 to R96, R135): memory in canonical form; halted only between steps; a wait only while the
instruction at `C` is the one that waits, with `A mod 256` on offer and `A` not the sentinel; reset values while `rst` is held. -/
def Coherent (s : State) : Prop :=
  s.mem.wf ∧
    match s.phase with
    | .ready => True
    | .reset => s.a = 0 ∧ s.c = 0 ∧ s.d = 0 ∧ s.halted = false ∧ s.hitEof = false
    | .waitIn => s.halted = false ∧ fetchInstr s = .inp
    | .waitOut b => s.halted = false ∧ fetchInstr s = .out ∧ s.a ≠ sentinel ∧ b = lowByte s.a

/-- The host answers every request and takes every byte: the finite-sequence instance of R111. -/
def HostAnswers (s : State) : Prop := s.adapter.afterwards = .eof ∧ s.adapter.takes = .always

/-- A cycle under reset that loads one word of the image (R137). -/
def loadTick (cell : Word × Word) : PortsIn :=
  { PortsIn.quiet with rst := true, loadEn := true, loadAddr := storedForm cell.1, loadData := storedForm cell.2 }

/-- A memory after a list of writes, first to last. -/
def writeAll (m : Memory) (cells : List (Word × Word)) : Memory := cells.foldl (fun m cell => m.write cell.1 cell.2) m

/-! The step's pseudocode over plain numbers (R84), written from the rule and from R12, R76 and R78 alone. -/

/-- The architectural state as numbers, with the input still to come and the output so far (R32, R111). -/
structure SpecState where
  A : Nat
  C : Nat
  D : Nat
  halted : Bool
  hitEof : Bool
  memory : Nat → Nat
  input : List InAnswer
  output : List Nat

/-- `rotate` (R76). -/
def specRotate (x : Nat) : Nat := x / 3 + x % 3 * 3 ^ 9

/-- `trit` (R12). -/
def specTrit (x i : Nat) : Nat := x / 3 ^ i % 3

/-- `subtract_digitwise` (R78), with the non-negative remainder of R11. -/
def specSubtract (x y : Nat) : Nat :=
  ((List.range 10).map fun i => (((specTrit x i : Int) - (specTrit y i : Int)) % 3).toNat * 3 ^ i).sum

/-- `memory[a] <- v`. -/
def specWrite (memory : Nat → Nat) (a v : Nat) : Nat → Nat := fun x => if x = a then v else memory x

/-- Dispatch on the number `instr` (R84, R112, R113). -/
def specDispatch (instr data : Nat) (m : SpecState) : SpecState :=
  if instr = 33 then { m with halted := true }
  else if instr = 42 then { m with D := data }
  else if instr = 62 then { m with A := specRotate data, memory := specWrite m.memory m.D (specRotate data) }
  else if instr = 94 then { m with C := data }
  else if instr = 123 then
    if m.A = 59048 then { m with halted := true } else { m with output := m.output ++ [m.A % 256] }
  else if instr = 124 then
    { m with A := specSubtract m.A data, memory := specWrite m.memory m.D (specSubtract m.A data) }
  else if instr = 125 then
    match m.input with
    | .byte b :: rest => { m with A := b.toNat, input := rest }
    | .eof :: rest => { m with A := 59048, hitEof := true, input := rest }
    | [] => { m with A := 59048, hitEof := true }
  else m

/-- The last two lines of the pseudocode: the advance, unless the step halted and `haltAdvancesPointers` is false. -/
def specAdvance (haltAdvancesPointers : Bool) (m : SpecState) : SpecState :=
  if !m.halted || haltAdvancesPointers then { m with C := (m.C + 1) % 59049, D := (m.D + 1) % 59049 } else m

/-- `step()` (R84). -/
def specStep (haltAdvancesPointers : Bool) (m : SpecState) : SpecState :=
  if m.halted then m
  else specAdvance haltAdvancesPointers (specDispatch (m.memory m.C) (m.memory m.D) m)

/-- A state of the machine as numbers. Addresses outside 0..N−1 read as 0, and no step looks at them. -/
def specView (s : State) : SpecState where
  A := s.a.val
  C := s.c.val
  D := s.d.val
  halted := s.halted
  hitEof := s.hitEof
  memory := fun x => if h : x < 59049 then (s.mem.read ⟨x, h⟩).val else 0
  input := s.adapter.answers
  output := s.adapter.taken.map BitVec.toNat

end Sys2Proof.Machine
end

