-- ==== Sys2Proof/Certificates/Slice0/Obligations.lean ====
section
/-! DEFINITION. The statements for the provers: what the spec's numbered rules say the machine does. Each is listed in
OBLIGATIONS.json with the rules it cites. -/

open Sys2Proof Sys2Proof.Machine

/-! Encoding (spec 30_encoding.md). -/

/-- The words of the opcode table, written out from its hex column (R55), two words of the default row (R57), and two stored codes that
are no word (R9). -/
def Obligations.WrittenWordsDecode : Prop :=
  decodeTableWord 16 0x0021 = some .halt ∧ decodeTableWord 16 0x002A = some .ldd ∧ decodeTableWord 16 0x003E = some .rot ∧
  decodeTableWord 16 0x005E = some .jmp ∧ decodeTableWord 16 0x005F = some .nop ∧ decodeTableWord 16 0x007B = some .out ∧
  decodeTableWord 16 0x007C = some .sub ∧ decodeTableWord 16 0x007D = some .inp ∧
  decodeTableWord 16 0 = some (.nopDefault 0) ∧ decodeTableWord 16 59048 = some (.nopDefault 59048) ∧
  decodeTableWord 16 59049 = none ∧ decodeTableWord 16 65535 = none

/-- Encoding and decoding are inverse to each other: every well-formed instruction survives the round trip, and every word is the
encoding of the well-formed instruction it decodes to. -/
def Obligations.DecodeEncodeAgree : Prop :=
  (∀ i : Instr, WellFormed i = true → decode (encode i) = i) ∧
  (∀ w : Word, WellFormed (decode w) = true ∧ encode (decode w) = w)

/-- The words of the default row, by range and by number (R57). -/
def Obligations.DefaultRowIsEveryOtherWord : Prop :=
  (∀ w : Word, w ∉ opcodes ↔ decode w = .nopDefault w) ∧
  (∀ w : Word, decode w = .nopDefault w ↔
    w.val ≤ 32 ∨ (34 ≤ w.val ∧ w.val ≤ 41) ∨ (43 ≤ w.val ∧ w.val ≤ 61) ∨ (63 ≤ w.val ∧ w.val ≤ 93) ∨
    (96 ≤ w.val ∧ w.val ≤ 122) ∨ (126 ≤ w.val ∧ w.val ≤ 59048)) ∧
  (Finset.univ.filter fun w : Word => decode w = .nopDefault w).card = 59041 ∧
  decode 0 = .nopDefault 0

/-- Decoding compares the whole stored word with a row's code; the default row takes what no opcode row matches, and no word matches two
opcode rows: the inference the spec draws in 30_encoding.md section 1 ("[derived: from rule R55 and 00_scope.md rule R9]"). -/
def Obligations.OpcodeRowsMatchWholeWords : Prop :=
  (∀ (w : Word) (i : Instr), (∀ v, i ≠ .nopDefault v) →
    ((storedForm w &&& rowMask i = rowMatch i ↔ storedForm w = rowMatch i) ∧
     (storedForm w &&& rowMask i = rowMatch i ↔ decode w = i))) ∧
  (∀ w : Word, decode w = .nopDefault w ↔
    ∀ i : Instr, (∀ v, i ≠ .nopDefault v) → storedForm w &&& rowMask i ≠ rowMatch i) ∧
  (∀ (w : Word) (i j : Instr), (∀ v, i ≠ .nopDefault v) → (∀ v, j ≠ .nopDefault v) →
    storedForm w &&& rowMask i = rowMatch i → storedForm w &&& rowMask j = rowMatch j → i = j)

/-- The stored forms are exactly the codes 0..59048; any other code is refused by name. The 16-bit form is the spec's
decision D1, the refusal its entry I6. -/
def Obligations.StoredFormsAreTheWords : Prop :=
  (∀ w : Word, (storedForm w).toNat = w.val ∧ ofStored (storedForm w) = some w ∧ decodeStored (storedForm w) = .ok (decode w)) ∧
  (∀ b : BitVec 16, ofStored b = none ↔ 59049 ≤ b.toNat) ∧
  (∀ (b : BitVec 16) (w : Word), ofStored b = some w → storedForm w = b) ∧
  (∀ b : BitVec 16, 59049 ≤ b.toNat → decodeStored b = .error .notAWord)

/-! The ternary arithmetic unit (spec 40_ternary_alu.md). -/

/-- The rotation's formula and its digit form, which determine each other: the inference the spec draws in 40_ternary_alu.md section 2
("The two forms agree."). -/
def Obligations.RotateMovesEveryTrit : Prop :=
  (∀ x : Word, (rotate x).val = x.val / 3 + x.val % 3 * 3 ^ 9) ∧
  (∀ x : Word, trit (rotate x) 9 = trit x 0) ∧
  (∀ (x : Word) (i : Nat), i ≤ 8 → trit (rotate x) i = trit x (i + 1)) ∧
  (∀ x y : Word, trit y 9 = trit x 0 → (∀ i : Nat, i ≤ 8 → trit y i = trit x (i + 1)) → y = rotate x) ∧
  rotate 62 = 39386

/-- The laws of the rotation: ten rotations are the identity; it is a bijection whose inverse is nine rotations and has the stated
formula; its fixed points; its periods. Laws (b) to (d) are the spec's own inference ("Laws (b) to (d) are [derived: from rule R77]"). -/
def Obligations.RotateLaws : Prop :=
  (∀ x : Word, rotate^[10] x = x) ∧
  Function.Bijective rotate ∧
  (∀ x : Word, (rotate^[9] x).val = x.val % 3 ^ 9 * 3 + x.val / 3 ^ 9 ∧ rotate (rotate^[9] x) = x) ∧
  (∀ x : Word, rotate x = x ↔ x = 0 ∨ x = 29524 ∨ x = 59048) ∧
  (∀ x : Word, rotate x = x ↔ ∀ i j : Fin 10, trit x i.val = trit x j.val) ∧
  (∀ (x : Word) (k : Nat), rotate^[k] x = x ↔ ∀ i : Fin 10, trit x ((i.val + k) % 10) = trit x i.val) ∧
  (∀ x : Word, Function.minimalPeriod rotate x ∣ 10) ∧
  Function.minimalPeriod rotate 7381 = 2 ∧ Function.minimalPeriod rotate 244 = 5 ∧
  Function.minimalPeriod rotate 1 = 10 ∧ Function.minimalPeriod rotate 3785 = 10

/-- The digit-wise subtraction is the sum of its lanes, each the non-negative remainder of the difference of two trits; SUB applies it to
`A` and `data` in this order (R78). -/
def Obligations.SubtractIsTheSumOfLanes : Prop :=
  (∀ x y : Word, ((subtractDigitwise x y).val : Int) =
    ∑ i ∈ Finset.range 10, (((trit x i).val : Int) - ((trit y i).val : Int)) % 3 * 3 ^ i) ∧
  (∀ s : State, ∃ t, exec .sub s = .next t ∧ t.a = subtractDigitwise s.a (data s)) ∧
  subtractDigitwise 5 7 = 7 ∧ ((5 : Int) - 7) % 59049 = 59047

/-- No borrow passes between lanes: a lane of the result is a function of that lane of each operand alone, given by
the table of 40_ternary_alu.md section 3. -/
def Obligations.SubtractLanesAreIndependent : Prop :=
  (∀ (x y : Word) (i : Fin 10), trit (subtractDigitwise x y) i.val = subTrit (trit x i.val) (trit y i.val)) ∧
  (∀ (x y x' y' : Word) (i : Fin 10), trit x i.val = trit x' i.val → trit y i.val = trit y' i.val →
    trit (subtractDigitwise x y) i.val = trit (subtractDigitwise x' y') i.val) ∧
  (subTrit 0 0 = 0 ∧ subTrit 0 1 = 2 ∧ subTrit 0 2 = 1) ∧
  (subTrit 1 0 = 1 ∧ subTrit 1 1 = 0 ∧ subTrit 1 2 = 2) ∧
  (subTrit 2 0 = 2 ∧ subTrit 2 1 = 1 ∧ subTrit 2 2 = 0)

/-- The laws (a) to (i) of the digit-wise subtraction; (c) to (i) are the spec's own inference ("Laws (c) to (i) are [derived: from rule
R78 and rule R79]"). -/
def Obligations.SubtractLaws : Prop :=
  (∀ x : Word, subtractDigitwise x x = 0) ∧
  (∀ (x y y' : Word) (i : Fin 10), (∀ j : Fin 10, j ≠ i → trit y j.val = trit y' j.val) →
    ∀ j : Fin 10, j ≠ i → trit (subtractDigitwise x y) j.val = trit (subtractDigitwise x y') j.val) ∧
  (∀ (x x' y : Word) (i : Fin 10), (∀ j : Fin 10, j ≠ i → trit x j.val = trit x' j.val) →
    ∀ j : Fin 10, j ≠ i → trit (subtractDigitwise x y) j.val = trit (subtractDigitwise x' y) j.val) ∧
  (∀ x : Word, subtractDigitwise x 0 = x) ∧
  (∀ (y : Word) (i : Fin 10), (trit y i.val = 0 → trit (subtractDigitwise 0 y) i.val = 0) ∧
    (trit y i.val = 1 → trit (subtractDigitwise 0 y) i.val = 2) ∧ (trit y i.val = 2 → trit (subtractDigitwise 0 y) i.val = 1)) ∧
  (∀ y : Word, subtractDigitwise 0 (subtractDigitwise 0 y) = y) ∧
  (∀ x y : Word, subtractDigitwise y x = subtractDigitwise 0 (subtractDigitwise x y)) ∧
  (∀ x y : Word, subtractDigitwise x y = 0 ↔ x = y) ∧
  (∀ x y : Word, x = subtractDigitwise (subtractDigitwise x y) (subtractDigitwise 0 y)) ∧
  (∀ (x : Word) (i : Fin 10), (trit (subtractDigitwise x sentinel) i.val).val = ((trit x i.val).val + 1) % 3) ∧
  subtractDigitwise 0 sentinel = 29524 ∧ subtractDigitwise 0 29524 = sentinel ∧
  (∀ a d : Word, subtractDigitwise a d = sentinel ↔
    ∀ i : Fin 10, (((trit a i.val).val : Int) - ((trit d i.val).val : Int)) % 3 = 2) ∧
  (∀ s t : State, exec .sub s = .next t → t.a = sentinel →
    ∀ i : Fin 10, (((trit s.a i.val).val : Int) - ((trit (data s) i.val).val : Int)) % 3 = 2)

/-! The instructions: result, frame and completion of each. -/

/-- ROT (R102, with the formula and example of R76): its corner cases, ten executions on one cell that nothing else changes, and its worked
example. -/
def Obligations.RotInstruction : Prop :=
  decode 62 = .rot ∧
  (∀ s : State, ∃ t, exec .rot s = .next t ∧ t.a = rotate (data s) ∧ t.a.val = (data s).val / 3 + (data s).val % 3 * 3 ^ 9 ∧
    t.mem.read s.d = rotate (data s) ∧ SameMemoryBut s.d s t ∧ Advanced s.c s.d t ∧ SameControl s t) ∧
  (∀ (s : State) (v : Word), exec .rot (setA v s) = exec .rot s) ∧
  (∀ s t : State, data s = 0 ∨ data s = 29524 ∨ data s = 59048 → exec .rot s = .next t → t.a = data s ∧ SameMemory s t) ∧
  (∀ s t : State, data s = sentinel → exec .rot s = .next t →
    t.a = sentinel ∧ ∃ u, exec .out t = .next u ∧ u.halted = true ∧ u.adapter = t.adapter) ∧
  (∀ s t : State, s.c = s.d → instrWord s = 62 → exec .rot s = .next t →
    data s = 62 ∧ t.a = 39386 ∧ t.mem.read s.c = 39386 ∧ decode (t.mem.read s.c) = .nopDefault 39386) ∧
  (∀ (before after : Nat → State) (x : Word),
    (∀ n < 10, (before n).d = x ∧ exec .rot (before n) = .next (after n) ∧ (before (n + 1)).mem.read x = (after n).mem.read x) →
    (before 10).mem.read x = (before 0).mem.read x) ∧
  (∀ s : State, s.c = 0 → s.d = 0 → s.mem.read 0 = 62 → s.phase = .ready → s.halted = false →
    ∃ t, step s = .next t ∧ t.a = 39386 ∧ t.mem.read 0 = 39386 ∧ t.c = 1 ∧ t.d = 1)

/-- SUB (R103), with its corner cases and its worked example. -/
def Obligations.SubInstruction : Prop :=
  decode 124 = .sub ∧
  (∀ s : State, ∃ t, exec .sub s = .next t ∧ t.a = subtractDigitwise s.a (data s) ∧
    (∀ i : Fin 10, ((trit t.a i.val).val : Int) = (((trit s.a i.val).val : Int) - ((trit (data s) i.val).val : Int)) % 3) ∧
    t.mem.read s.d = t.a ∧ SameMemoryBut s.d s t ∧ Advanced s.c s.d t ∧ SameControl s t) ∧
  (∀ s t : State, s.a = data s → exec .sub s = .next t → t.a = 0 ∧ t.mem.read s.d = 0) ∧
  (∀ s t : State, exec .sub s = .next t → (data s = 0 → t.a = s.a ∧ t.mem.read s.d = s.a) ∧ (t.a = s.a → data s = 0)) ∧
  (∀ s t : State, s.a = 0 → exec .sub s = .next t → ∀ i : Fin 10, (trit (data s) i.val = 0 → trit t.a i.val = 0) ∧
    (trit (data s) i.val = 1 → trit t.a i.val = 2) ∧ (trit (data s) i.val = 2 → trit t.a i.val = 1)) ∧
  (∀ s t : State, exec .sub s = .next t →
    (t.a = sentinel ↔ ∀ i : Fin 10, (((trit s.a i.val).val : Int) - ((trit (data s) i.val).val : Int)) % 3 = 2)) ∧
  (∀ s t : State, s.a = 0 → data s = 29524 → exec .sub s = .next t → t.a = sentinel) ∧
  (∀ s t : State, s.c = s.d → instrWord s = 124 → s.a = 0 → exec .sub s = .next t →
    data s = 124 ∧ t.a = 239 ∧ t.mem.read s.c = 239 ∧ decode (t.mem.read s.c) = .nopDefault 239) ∧
  (∀ s t : State, s.a = 5 → data s = 7 → exec .sub s = .next t → t.a = 7) ∧ ((5 : Int) - 7) % 59049 = 59047 ∧
  (∀ x y : Word, subtractDigitwise y x = subtractDigitwise 0 (subtractDigitwise x y)) ∧
  (∀ s : State, s.a = 0 → s.c = 0 → s.d = 0 → s.mem.read 0 = 124 → s.phase = .ready → s.halted = false →
    ∃ t, step s = .next t ∧ t.a = 239 ∧ t.mem.read 0 = 239 ∧ t.c = 1 ∧ t.d = 1)

/-- LDD (R105), with its corner cases and its worked example. -/
def Obligations.LddInstruction : Prop :=
  decode 42 = .ldd ∧
  (∀ s : State, ∃ t, exec .ldd s = .next t ∧ Advanced s.c (data s) t ∧ t.a = s.a ∧ SameMemory s t ∧ SameControl s t ∧
    data t = t.mem.read (incr (data s))) ∧
  (∀ s t : State, data s = sentinel → exec .ldd s = .next t → t.d = 0) ∧
  (∀ s t : State, data s = s.d → exec .ldd s = .next t → exec .nop s = .next t) ∧
  (∀ s t : State, s.c = s.d → instrWord s = 42 → exec .ldd s = .next t → t.d = 43) ∧
  (∀ (i : Instr) (s t : State), s.c = s.d → i ≠ .ldd → i ≠ .jmp → exec i s = .next t → t.c = t.d) ∧
  (∀ s : State, s.c = 0 → s.d = 0 → s.mem.read 0 = 42 → s.phase = .ready → s.halted = false →
    ∃ t, step s = .next t ∧ t.c = 1 ∧ t.d = 43)

/-- JMP (R106), with its corner cases and its worked example. -/
def Obligations.JmpInstruction : Prop :=
  decode 94 = .jmp ∧
  (∀ s : State, ∃ t, exec .jmp s = .next t ∧ Advanced (data s) s.d t ∧ t.a = s.a ∧ SameMemory s t ∧ SameControl s t ∧
    instrWord t = t.mem.read (incr (data s))) ∧
  (∀ s t : State, data s = sentinel → exec .jmp s = .next t → t.c = 0) ∧
  (∀ s t : State, data s = s.c → exec .jmp s = .next t → exec .nop s = .next t) ∧
  (∀ s t : State, incr (data s) = s.c → exec .jmp s = .next t → t.c = s.c ∧ t.d = incr s.d ∧ t.d ≠ s.d) ∧
  (∀ s t : State, s.c = s.d → instrWord s = 94 → exec .jmp s = .next t → t.c = 95) ∧
  (∀ s : State, s.c = 0 → s.d = 0 → s.mem.read 0 = 94 → s.phase = .ready → s.halted = false →
    ∃ t, step s = .next t ∧ t.c = 95 ∧ t.d = 1)

/-- OUT: the halting branch, the written byte, the block in WAIT_OUT before any other change while the host takes no byte, and the spec's
numbers. That the host's side stands in the adapter, and that a blocked OUT is a next state which waits with its byte on offer, is the
model's choice (log entries 6 and 7). -/
def Obligations.OutInstruction : Prop :=
  decode 123 = .out ∧
  (∀ s : State, s.a = 59048 → ∃ t, exec .out s = .next t ∧ t.halted = true ∧ HaltPointers s t ∧ t.a = s.a ∧ t.hitEof = s.hitEof ∧
    SameMemory s t ∧ t.adapter = s.adapter ∧ t.phase = s.phase ∧ t.haltAdvancesPointers = s.haltAdvancesPointers) ∧
  (∀ s : State, s.a ≠ 59048 → s.adapter.takes ≠ .atMost 0 → ∃ t, exec .out s = .next t ∧
    t.adapter.taken = s.adapter.taken ++ [BitVec.ofNat 8 (s.a.val % 256)] ∧ Advanced s.c s.d t ∧ t.a = s.a ∧
    t.halted = s.halted ∧ t.hitEof = s.hitEof ∧ SameMemory s t ∧ t.phase = .ready ∧
    t.haltAdvancesPointers = s.haltAdvancesPointers ∧ t.adapter.answered = s.adapter.answered ∧
    t.adapter.answers = s.adapter.answers ∧ t.adapter.afterwards = s.adapter.afterwards) ∧
  (∀ s : State, s.a ≠ 59048 → s.adapter.takes = .atMost 0 → exec .out s = .next (setPhase (.waitOut (lowByte s.a)) s)) ∧
  lowByte 59047 = 0xA7 ∧ lowByte 39386 = 0xDA ∧ lowByte 65 = 0x41

/-- IN: a byte, end of input, and the block in WAIT_IN before any other change while the host does not answer. That the host's side
stands in the adapter, and that a blocked IN is a next state which waits, is the model's choice (log entries 5 and 7). -/
def Obligations.InInstruction : Prop :=
  decode 125 = .inp ∧
  (∀ (s : State) (b : Byte) (rest : List InAnswer), s.adapter.answers = .byte b :: rest → ∃ t, exec .inp s = .next t ∧
    t.a.val = b.toNat ∧ t.hitEof = s.hitEof ∧ Advanced s.c s.d t ∧ t.halted = s.halted ∧ SameMemory s t ∧ t.phase = .ready ∧
    t.haltAdvancesPointers = s.haltAdvancesPointers ∧ t.adapter.answers = rest ∧
    t.adapter.answered = s.adapter.answered ++ [.byte b] ∧ t.adapter.taken = s.adapter.taken) ∧
  (∀ (s : State) (rest : List InAnswer),
    s.adapter.answers = .eof :: rest ∨ (s.adapter.answers = [] ∧ rest = [] ∧ s.adapter.afterwards = .eof) → ∃ t, exec .inp s = .next t ∧
    t.a = 59048 ∧ t.hitEof = true ∧ Advanced s.c s.d t ∧ t.halted = s.halted ∧ SameMemory s t ∧ t.phase = .ready ∧
    t.haltAdvancesPointers = s.haltAdvancesPointers ∧ t.adapter.answers = rest ∧
    t.adapter.answered = s.adapter.answered ++ [.eof] ∧ t.adapter.taken = s.adapter.taken) ∧
  (∀ s : State, s.adapter.answers = [] → s.adapter.afterwards = .silent → exec .inp s = .next (setPhase .waitIn s)) ∧
  (∀ (s : State) (v : Word), s.adapter.readByte ≠ none → exec .inp (setA v s) = exec .inp s) ∧
  (∀ b : Byte, zextByte b ≠ 59048)

/-- HALT (R117), with its corner cases and its worked example for both values of the parameter. -/
def Obligations.HaltInstruction : Prop :=
  decode 33 = .halt ∧
  (∀ s : State, ∃ t, exec .halt s = .next t ∧ t.halted = true ∧ HaltPointers s t ∧ t.a = s.a ∧ SameMemory s t ∧
    t.hitEof = s.hitEof ∧ t.adapter = s.adapter ∧ t.phase = s.phase ∧ t.haltAdvancesPointers = s.haltAdvancesPointers ∧
    (s.phase = .ready → step t = .next t ∧ reportsHalted t = true)) ∧
  (∀ i : Instr, (∀ s t : State, exec i s = .next t → t.halted = true) ↔ i = .halt) ∧
  (∀ flag : Bool, ∃ t, step { boot [(0, 33)] with haltAdvancesPointers := flag } = .next t ∧ t.a = 0 ∧ t.halted = true ∧
    t.adapter.taken = [] ∧ (flag = true → t.c = 1 ∧ t.d = 1) ∧ (flag = false → t.c = 0 ∧ t.d = 0))

/-- NOP (R118): the pointer advance and nothing else, with its wrap and its worked example. -/
def Obligations.NopInstruction : Prop :=
  decode 95 = .nop ∧
  (∀ s : State, ∃ t, exec .nop s = .next t ∧ Advanced s.c s.d t ∧ t.a = s.a ∧ SameMemory s t ∧ SameControl s t) ∧
  (∀ s t : State, s.c = sentinel → exec .nop s = .next t → t.c = 0) ∧
  (∀ s t : State, s.c = 7 → s.d = 300 → exec .nop s = .next t → t.c = 8 ∧ t.d = 301)

/-- NOP_DEFAULT (R119): every other word, with whatever value, does what NOP does; 0, a result of ROT or SUB, and the sentinel among
them. -/
def Obligations.DefaultNoOpInstruction : Prop :=
  (∀ w : Word, w ∉ [33, 42, 62, 94, 95, 123, 124, 125] → decode w = .nopDefault w) ∧
  (∀ (w : Word) (s : State), exec (.nopDefault w) s = exec .nop s) ∧
  (∀ (w : Word) (s : State), ∃ t, exec (.nopDefault w) s = .next t ∧ Advanced s.c s.d t ∧ t.a = s.a ∧ SameMemory s t ∧
    SameControl s t) ∧
  decode 0 = .nopDefault 0 ∧ decode 239 = .nopDefault 239 ∧ decode 39386 = .nopDefault 39386 ∧
  decode sentinel = .nopDefault sentinel ∧
  (∀ s t : State, s.phase = .ready → s.halted = false → s.c = sentinel → s.mem.read s.c = 0 → step s = .next t →
    t.c = 0 ∧ t.d = incr s.d ∧ t.a = s.a ∧ SameMemory s t)

/-- The accumulator is read by SUB and OUT alone: for every other instruction, changing `A` beforehand changes nothing afterwards, but
for `A` itself. -/
def Obligations.AccumulatorReadBySubAndOutOnly : Prop :=
  ∀ (i : Instr) (s t : State) (v : Word), i ≠ .sub → i ≠ .out → exec i s = .next t →
    ∃ t', exec i (setA v s) = .next t' ∧ setA t.a t' = t

/-- No instruction, operand, address or state faults, traps or is refused: every instruction and every step answers a next state, and
every word decodes to a well-formed instruction (R120). -/
def Obligations.NothingTraps : Prop :=
  (∀ (i : Instr) (s : State), ∃ t, exec i s = .next t) ∧ (∀ s : State, ∃ t, step s = .next t) ∧
  (∀ w : Word, WellFormed (decode w) = true)

/-! The step (spec 41_step_cycle.md). -/

/-- Between steps, a running machine's step is the meaning of the instruction decoded from the word at `C`. -/
def Obligations.StepRunsDecodedInstruction : Prop :=
  ∀ (s : State) (i : Instr), s.phase = .ready → s.halted = false → decode (s.mem.read s.c) = i → step s = exec i s

/-- A waiting step is the same instruction still to be completed: in every state the machine can be in, outside RESET and HALTED, a step
is the meaning of the instruction at `C`. In RESET a step request changes nothing.
The model's reading of a step in these states: log entries 7 and 8. -/
def Obligations.WaitingStepRunsTheSameInstruction : Prop :=
  (∀ s : State, Coherent s → s.halted = false → s.phase ≠ .reset → step s = exec (fetchInstr s) s) ∧
  (∀ s : State, s.phase = .reset → step s = .next s)

/-- A step in the halted state changes nothing and reports halted (R89), however often it is asked for. -/
def Obligations.HaltedStepChangesNothing : Prop :=
  (∀ s : State, Coherent s → s.halted = true → step s = .next s ∧ reportsHalted s = true) ∧
  (∀ (k : Nat) (s : State), Coherent s → s.halted = true → steps k s = .next s)

/-- A step reports halted exactly when the machine was halted or the step executed HALT, or OUT with `A = N−1`; halted is absorbing, and
no step ends otherwise than in a next state (R90, R92). -/
def Obligations.HaltedReachedInTwoWays : Prop :=
  (∀ s : State, ∃ t, step s = .next t) ∧
  (∀ s t : State, step s = .next t → reportsHalted t = t.halted) ∧
  (∀ s t : State, Coherent s → step s = .next t →
    (t.halted = true ↔ s.halted = true ∨
      (s.phase = .ready ∧ (fetchInstr s = .halt ∨ (fetchInstr s = .out ∧ s.a = sentinel)))))

/-- The pointer advance (R86): a completed step leaves each pointer one past the value dispatch left it, modulo N; after JMP that is one
past `data`, after LDD `D` is one past `data`. The halting step is included where `haltAdvancesPointers` is true. -/
def Obligations.PointersAdvanceAfterDispatch : Prop :=
  (∀ s t : State, Coherent s → s.halted = false → s.phase ≠ .reset → step s = .next t → t.phase = .ready →
    (t.halted = true → s.haltAdvancesPointers = true) →
    t.c.val = ((if fetchInstr s = .jmp then data s else s.c).val + 1) % 59049 ∧
    t.d.val = ((if fetchInstr s = .ldd then data s else s.d).val + 1) % 59049) ∧
  incr sentinel = 0

/-- The halting step and the pointers, by the spec's decision D2: by default it advances them; with the parameter false it leaves them;
and two machines that differ only in the parameter differ after a step at most in the parameter and, once halted, in the pointers. -/
def Obligations.HaltingStepAndThePointers : Prop :=
  State.reset.haltAdvancesPointers = true ∧
  (∀ s : State, s.phase = .ready → s.halted = false → fetchInstr s = .halt ∨ (fetchInstr s = .out ∧ s.a = sentinel) →
    ∃ t, step s = .next t ∧ t.halted = true ∧ (s.haltAdvancesPointers = true → Advanced s.c s.d t) ∧
      (s.haltAdvancesPointers = false → t.c = s.c ∧ t.d = s.d)) ∧
  (∀ (s t : State) (flag : Bool), Coherent s → step s = .next t →
    ∃ t', step { s with haltAdvancesPointers := flag } = .next t' ∧
      { t' with haltAdvancesPointers := t.haltAdvancesPointers, c := t.c, d := t.d } = t ∧
      (t.halted = false → t'.c = t.c ∧ t'.d = t.d)) ∧
  (∀ s : State, Coherent s → s.halted = true → ∀ c d : Word, step { s with c := c, d := d } = .next { s with c := c, d := d })

/-- Memory changes in exactly two ways: the write of ROT and SUB at `D`, and the load port while reset is held. Reset itself
changes no word (the spec's decisions D10 and D12). -/
def Obligations.MemoryChangesInTwoWays : Prop :=
  (∀ (s t : State) (x : Word), step s = .next t → t.mem.read x ≠ s.mem.read x →
    s.phase = .ready ∧ s.halted = false ∧ (fetchInstr s = .rot ∨ fetchInstr s = .sub) ∧ x = s.d ∧ t.mem.read x = t.a) ∧
  (∀ (p : PortsIn) (s t : State) (x : Word), tick p s = .next t → t.mem.read x ≠ s.mem.read x →
    (p.rst = true ∧ p.loadEn = true ∧ ofStored p.loadAddr = some x ∧ ofStored p.loadData = some (t.mem.read x)) ∨
    (p.rst = false ∧ p.start = true ∧ s.phase = .ready ∧ s.halted = false ∧ (fetchInstr s = .rot ∨ fetchInstr s = .sub) ∧
      x = s.d ∧ t.mem.read x = t.a)) ∧
  (∀ (p : PortsIn) (s t : State), p.rst = true → p.loadEn = false → tick p s = .next t → t.mem = s.mem)

/-- Self-modification: a word written by ROT or SUB is what every later instruction fetch from that address decodes and what every later
data fetch from it reads: at any state that still holds it there, and so after any number of steps in which no ROT or SUB writes that
address again. -/
def Obligations.WrittenWordIsFetchedNext : Prop :=
  ∀ s t : State, s.phase = .ready → s.halted = false → fetchInstr s = .rot ∨ fetchInstr s = .sub → step s = .next t →
    t.mem.read s.d = t.a ∧
    (∀ u : State, u.mem.read s.d = t.a → u.d = s.d → data u = t.a) ∧
    (∀ u : State, u.mem.read s.d = t.a → u.c = s.d →
      instrWord u = t.a ∧ (u.phase = .ready → u.halted = false → step u = exec (decode t.a) u)) ∧
    (∀ (k : Nat) (u : State), steps k t = .next u →
      (∀ (j : Nat) (v : State), j < k → steps j t = .next v → v.phase = .ready → v.halted = false →
        fetchInstr v = .rot ∨ fetchInstr v = .sub → v.d ≠ s.d) →
      u.mem.read s.d = t.a ∧ (u.d = s.d → data u = t.a) ∧
        (u.c = s.d → instrWord u = t.a ∧ (u.phase = .ready → u.halted = false → step u = exec (decode t.a) u)))

/-- `hit_eof`, by the spec's decisions D3 and D4: false at reset; set by IN on end of input and by nothing else; never cleared by a step;
never read, so a machine with the other flag value takes the same step; a byte after end of input is read and leaves it set; the
finite-sequence host answers EOF again; the host sees it. The host's side is the adapter of log entry 5. -/
def Obligations.HitEofIsStickyAndNeverRead : Prop :=
  State.reset.hitEof = false ∧
  (∀ s t : State, step s = .next t → s.hitEof = true → t.hitEof = true) ∧
  (∀ s t : State, Coherent s → step s = .next t → s.hitEof = false → t.hitEof = true →
    s.halted = false ∧ fetchInstr s = .inp ∧ t.adapter.answered = s.adapter.answered ++ [.eof]) ∧
  (∀ (s t : State) (flag : Bool), step s = .next t →
    ∃ t', step { s with hitEof := flag } = .next t' ∧ { t' with hitEof := t.hitEof } = t) ∧
  (∀ (s : State) (ad : Adapter), s.phase = .ready → s.halted = false → fetchInstr s = .inp →
    s.adapter.readByte = some (.eof, ad) → ∃ t, step s = .next t ∧ t.a = sentinel ∧ t.hitEof = true) ∧
  (∀ (s : State) (b : Byte) (ad : Adapter), s.phase = .ready → s.halted = false → fetchInstr s = .inp → s.hitEof = true →
    s.adapter.readByte = some (.byte b, ad) → ∃ t, step s = .next t ∧ t.a = zextByte b ∧ t.hitEof = true) ∧
  (∀ ad : Adapter, ad.answers = [] → ad.afterwards = .eof →
    ∃ ad', ad.readByte = some (.eof, ad') ∧ ad'.answers = [] ∧ ad'.afterwards = .eof) ∧
  (∀ (free : Undefined) (p : PortsIn) (s : State), (portsOut free p s).hitEof = s.hitEof)

/-- Input and output, byte by byte and in step order (R116): a completed IN moves exactly one answer from the host to the record, a
completed non-halting OUT appends exactly the byte `A mod 256`, and every other step, the halting OUT among them, moves nothing. -/
def Obligations.EachTransferIsOneStep : Prop :=
  ∀ s t : State, Coherent s → step s = .next t →
    if s.halted = false ∧ s.phase ≠ .reset ∧ t.phase = .ready ∧ fetchInstr s = .inp then
      ∃ ans, t.adapter.answered = s.adapter.answered ++ [ans] ∧ t.adapter.taken = s.adapter.taken ∧
        (s.adapter.answers = ans :: t.adapter.answers ∨ (s.adapter.answers = [] ∧ t.adapter.answers = [] ∧ ans = .eof))
    else if s.halted = false ∧ s.phase ≠ .reset ∧ t.phase = .ready ∧ fetchInstr s = .out ∧ s.a ≠ sentinel then
      t.adapter.taken = s.adapter.taken ++ [BitVec.ofNat 8 (s.a.val % 256)] ∧ t.adapter.answered = s.adapter.answered ∧
        t.adapter.answers = s.adapter.answers
    else t.adapter = s.adapter

/-- A host that never answers, or never takes, hangs the core: after any number of steps it still waits, with every register, flag and
word as before the step (44_io.md section 1, the spec's decisions D5 and D6 and its entry I3; log entries 5, 6 and 7). -/
def Obligations.SilentHostHangsTheCore : Prop :=
  (∀ (k : Nat) (s : State), s.phase = .ready → s.halted = false → fetchInstr s = .inp → s.adapter.answers = [] →
    s.adapter.afterwards = .silent → steps (k + 1) s = .next (setPhase .waitIn s)) ∧
  (∀ (k : Nat) (s : State), s.phase = .ready → s.halted = false → fetchInstr s = .out → s.a ≠ sentinel →
    s.adapter.takes = .atMost 0 → steps (k + 1) s = .next (setPhase (.waitOut (lowByte s.a)) s))

/-- `run()` under fuel ends only in a state a step reported halted, reached by that many steps; more fuel gives the same end; and it never
faults and is never refused. -/
def Obligations.RunEndsOnlyWhenHalted : Prop :=
  (∀ (fuel : Nat) (s t : State), runFor fuel s = .halted t → t.halted = true ∧ ∃ k, k + 1 ≤ fuel ∧ steps (k + 1) s = .next t) ∧
  (∀ (fuel more : Nat) (s t : State), runFor fuel s = .halted t → runFor (fuel + more) s = .halted t) ∧
  (∀ (fuel : Nat) (s : State), (∃ t, runFor fuel s = .halted t) ∨ runFor fuel s = .outOfFuel) ∧
  (∀ (fuel : Nat) (s : State), runFor fuel s = .outOfFuel →
    ∀ (k : Nat) (t : State), k + 1 ≤ fuel → steps (k + 1) s = .next t → t.halted = false)

/-- The machine's step is the spec's pseudocode over plain numbers (R84): for every state between steps, a step that completes, whatever
the host, leaves exactly what the pseudocode leaves and reports what it returns; and with a host that answers, every step completes. -/
def Obligations.StepRefinesPseudocode : Prop :=
  (∀ s t : State, s.phase = .ready → step s = .next t → t.phase = .ready →
    specView t = specStep s.haltAdvancesPointers (specView s) ∧
      reportsHalted t = (specStep s.haltAdvancesPointers (specView s)).halted) ∧
  (∀ s : State, s.phase = .ready → HostAnswers s →
    ∃ t, step s = .next t ∧ t.phase = .ready ∧ HostAnswers t ∧ t.haltAdvancesPointers = s.haltAdvancesPointers)

/-- Any number of steps is that many steps of the pseudocode, for a host that answers with a finite sequence and then end of input (the
instance of log entries 5 and 6). -/
def Obligations.RunRefinesPseudocode : Prop :=
  ∀ (k : Nat) (s : State), s.phase = .ready → HostAnswers s →
    ∃ t, steps k s = .next t ∧ specView t = (specStep s.haltAdvancesPointers)^[k] (specView s) ∧ t.phase = .ready ∧ HostAnswers t

/-! Reset, ports and the control FSM (spec 10_state.md, 41_step_cycle.md, 44_io.md, 70_reset_and_hazards.md). -/

/-- The reset values: registers 0, running, no input exhausted (the spec's decision D3), no step in progress, and the memory that of the
image, for every image (the spec's decision D10). State.reset is the machine booted with the empty program's image (log entry 2). -/
def Obligations.ResetValues : Prop :=
  (∀ image : Memory, (boot image).a = 0 ∧ (boot image).c = 0 ∧ (boot image).d = 0 ∧ (boot image).halted = false ∧
    (boot image).hitEof = false ∧ (∀ x : Word, (boot image).mem.read x = image.read x) ∧ fsmState (boot image) = .idle ∧
    ∀ (free : Undefined) (p : PortsIn), (portsOut free p (boot image)).inReq = false ∧
      (portsOut free p (boot image)).outReq = false ∧ (portsOut free p (boot image)).busy = false) ∧
  State.reset = boot (imageFrom 0 [])

/-- Reset, from any FSM state, by the spec's decisions D10 and D14: the step in progress is abandoned and nothing of it enters the host's
record; registers and flags take their reset values; no request is raised; `busy` is 1; the FSM is in RESET; memory is not changed. That
the host's whole script and record and the parameter are kept is the model's choice (log entry 21). -/
def Obligations.ResetFromAnyState : Prop :=
  ∀ (p : PortsIn) (s : State), p.rst = true → p.loadEn = false →
    ∃ t, tick p s = .next t ∧ t.a = 0 ∧ t.c = 0 ∧ t.d = 0 ∧ t.halted = false ∧ t.hitEof = false ∧ t.mem = s.mem ∧
      t.adapter = s.adapter ∧ t.haltAdvancesPointers = s.haltAdvancesPointers ∧ fsmState t = .reset ∧
      ∀ (free : Undefined) (q : PortsIn),
        (portsOut free q t).inReq = false ∧ (portsOut free q t).outReq = false ∧ (portsOut free q t).busy = true

/-- The load port, by the spec's decision D12 (log entries 11 and 12): under reset it writes one word; a load that is no word or no
address is refused; without reset it has no effect. That the load's cycle keeps the host's script and record and the parameter is the
model's choice (log entry 21). -/
def Obligations.LoadPortWritesUnderReset : Prop :=
  (∀ (p : PortsIn) (s : State) (x v : Word), p.rst = true → p.loadEn = true → ofStored p.loadAddr = some x →
    ofStored p.loadData = some v →
    ∃ t, tick p s = .next t ∧ t.mem.read x = v ∧ SameMemoryBut x s t ∧ fsmState t = .reset ∧ t.a = 0 ∧ t.c = 0 ∧ t.d = 0 ∧
      t.halted = false ∧ t.hitEof = false ∧ t.adapter = s.adapter ∧ t.haltAdvancesPointers = s.haltAdvancesPointers) ∧
  (∀ (p : PortsIn) (s : State), p.rst = true → p.loadEn = true →
    59049 ≤ p.loadAddr.toNat ∨ 59049 ≤ p.loadData.toNat → tick p s = .refused .loadNotAWord) ∧
  (∀ (p : PortsIn) (s : State) (en : Bool) (addr word : BitVec 16), p.rst = false →
    tick { p with loadEn := en, loadAddr := addr, loadData := word } s = tick p s)

/-- The release of reset, by the spec's decision D7 (log entry 13): the FSM enters IDLE with everything else kept, the first instruction
and its data are both `memory[0]`, and the machine starts the first step when asked to and waits otherwise. -/
def Obligations.FirstStepAfterReset : Prop :=
  ∀ (p : PortsIn) (s : State), Coherent s → s.phase = .reset → p.rst = false →
    ∃ t, tick p s = .next t ∧ t = setPhase .ready s ∧ fsmState t = .idle ∧ instrWord t = t.mem.read 0 ∧ data t = t.mem.read 0 ∧
      (∀ q : PortsIn, q.rst = false → q.run = true ∨ q.stepReq = true → tick q t = startStep t) ∧
      (∀ q : PortsIn, q.rst = false → q.run = false → q.stepReq = false → tick q t = .next t)

/-- Booting as the spec orders it: assert reset, load any list of words, release reset; the machine stands at its first step with exactly
those words written (the spec's decision D10). That the host's script and record and the parameter are kept throughout, and that the
release takes one tick, is the model's choice (log entries 21 and 13). -/
def Obligations.BootThroughTheLoadPort : Prop :=
  ∀ (cells : List (Word × Word)) (s : State),
    ticks ({ PortsIn.quiet with rst := true } :: cells.map loadTick ++ [PortsIn.quiet]) s =
      .next { boot (writeAll s.mem cells) with adapter := s.adapter, haltAdvancesPointers := s.haltAdvancesPointers }

/-- The FSM's transition table, row by row: the spec's decision D7. What reset keeps of the host's side, that the release of reset takes
one tick, and what an acknowledgement does to inputs beside it, is the model's choice (log entries 21, 13 and 25). -/
def Obligations.FsmTransitions : Prop :=
  ∀ (p : PortsIn) (s : State), Coherent s →
    (p.rst = true → p.loadEn = false → tick p s = .next (resetCore s)) ∧
    (p.rst = false → fsmState s = .reset → ∃ t, tick p s = .next t ∧ t = setPhase .ready s ∧ fsmState t = .idle) ∧
    (p.rst = false → fsmState s = .idle → p.start = true → fetchInstr s ≠ .inp → fetchInstr s ≠ .out →
      ∃ t, tick p s = .next t ∧ step s = .next t ∧ fsmState t = if t.halted then .halted else .idle) ∧
    (p.rst = false → fsmState s = .idle → p.start = true → fetchInstr s = .out → s.a = sentinel →
      ∃ t, tick p s = .next t ∧ t.halted = true ∧ HaltPointers s t ∧ fsmState t = .halted ∧ t.adapter = s.adapter) ∧
    (p.rst = false → fsmState s = .idle → p.start = true → fetchInstr s = .out → s.a ≠ sentinel →
      tick p s = .next (setPhase (.waitOut (BitVec.ofNat 8 (s.a.val % 256))) s)) ∧
    (p.rst = false → fsmState s = .idle → p.start = true → fetchInstr s = .inp → tick p s = .next (setPhase .waitIn s)) ∧
    (∀ b : Byte, p.rst = false → s.phase = .waitOut b → p.outAck = true →
      ∃ t, tick p s = .next t ∧ fsmState t = .idle ∧ Advanced s.c s.d t ∧ t.a = s.a ∧ t.hitEof = s.hitEof ∧ SameMemory s t ∧
        t.adapter.taken = s.adapter.taken ++ [b]) ∧
    (p.rst = false → s.phase = .waitIn → p.inAck = true → p.inEof = false →
      ∃ t, tick p s = .next t ∧ fsmState t = .idle ∧ Advanced s.c s.d t ∧ t.a = zextByte p.inByte ∧ t.hitEof = s.hitEof ∧
        SameMemory s t ∧ t.adapter.answered = s.adapter.answered ++ [.byte p.inByte]) ∧
    (p.rst = false → s.phase = .waitIn → p.inAck = true → p.inEof = true →
      ∃ t, tick p s = .next t ∧ fsmState t = .idle ∧ Advanced s.c s.d t ∧ t.a = sentinel ∧ t.hitEof = true ∧
        SameMemory s t ∧ t.adapter.answered = s.adapter.answered ++ [.eof]) ∧
    (p.rst = false → s.phase = .waitIn → p.inAck = false → tick p s = .next s) ∧
    (∀ b : Byte, p.rst = false → s.phase = .waitOut b → p.outAck = false → tick p s = .next s) ∧
    (p.rst = false → fsmState s = .halted → tick p s = .next s ∧ reportsHalted s = true)

/-- Starting a step, by the spec's decision D7: in IDLE by `step_req` or by `run` alike and by nothing else; a request while `busy` is
ignored; a started step executes the one instruction at `C`. That a request in the tick of an acknowledgement counts as one while busy is
the model's choice (log entry 25). -/
def Obligations.StartingAStep : Prop :=
  (∀ (p : PortsIn) (s : State), p.rst = false → fsmState s = .idle → p.stepReq = true ∨ p.run = true → tick p s = startStep s) ∧
  (∀ (p : PortsIn) (s : State), p.rst = false → fsmState s = .idle → p.stepReq = false → p.run = false → tick p s = .next s) ∧
  (∀ (p : PortsIn) (s : State) (req run : Bool), busy s = true → tick { p with stepReq := req, run := run } s = tick p s) ∧
  (∀ s : State, s.phase = .ready → s.halted = false →
    startStep s = exec (fetchInstr s) s ∨ (fetchInstr s = .inp ∧ startStep s = .next (setPhase .waitIn s)) ∨
      (fetchInstr s = .out ∧ s.a ≠ sentinel ∧ startStep s = .next (setPhase (.waitOut (lowByte s.a)) s)))

/-- The two port protocols, by the spec's decisions D5, D6 and D8: `in_req` is raised exactly in WAIT_IN and only during an IN step, the
acknowledgement drops it, and without a pending request an acknowledgement has no effect; `out_req` and its byte likewise, held until
`out_ack`. That a stray acknowledgement lets the tick pass is the model's choice (log entries 23 and 25). -/
def Obligations.PortProtocols : Prop :=
  (∀ (free : Undefined) (p : PortsIn) (s : State), ((portsOut free p s).inReq = true ↔ s.phase = .waitIn) ∧
    ((portsOut free p s).outReq = true ↔ ∃ b, s.phase = .waitOut b)) ∧
  (∀ (free : Undefined) (p : PortsIn) (s : State) (b : Byte), s.phase = .waitOut b → (portsOut free p s).outByte = b) ∧
  (∀ s : State, Coherent s → (s.phase = .waitIn → fetchInstr s = .inp) ∧ (∀ b, s.phase = .waitOut b → fetchInstr s = .out)) ∧
  (∀ (p : PortsIn) (s : State) (ack eof : Bool) (b : Byte), s.phase ≠ .waitIn →
    tick { p with inAck := ack, inEof := eof, inByte := b } s = tick p s) ∧
  (∀ (p : PortsIn) (s : State) (ack : Bool), (∀ b, s.phase ≠ .waitOut b) → tick { p with outAck := ack } s = tick p s) ∧
  (∀ (p : PortsIn) (s : State), p.rst = false → s.phase = .waitIn → p.inAck = true →
    ∃ t, tick p s = .next t ∧ t.phase = .ready ∧ t.adapter.answered = s.adapter.answered ++ [p.answer]) ∧
  (∀ (p : PortsIn) (s : State) (b : Byte), p.rst = false → s.phase = .waitOut b →
    (p.outAck = true → ∃ t, tick p s = .next t ∧ t.phase = .ready ∧ t.adapter.taken = s.adapter.taken ++ [b]) ∧
    (p.outAck = false → tick p s = .next s))

/-- The observe port, by the spec's decision D13 and its entry I8 (log entry 10): its table between steps and after halt, any value
everywhere else, and no effect on the machine. -/
def Obligations.ObservePort : Prop :=
  (∀ (s : State) (free addr : BitVec 16), busy s = false →
    obsData free 0 addr s = storedForm s.a ∧ obsData free 1 addr s = storedForm s.c ∧ obsData free 2 addr s = storedForm s.d ∧
    obsData free 3 addr s = (if s.halted then 1 else 0) ∧ obsData free 4 addr s = (if s.hitEof then 1 else 0) ∧
    ∀ x : Word, obsData free 5 (storedForm x) s = storedForm (s.mem.read x)) ∧
  (∀ (s : State) (sel : BitVec 3) (addr : BitVec 16), busy s = true ∨ sel = 6 ∨ sel = 7 ∨ (sel = 5 ∧ 59049 ≤ addr.toNat) →
    ∀ v : BitVec 16, ∃ free, obsData free sel addr s = v) ∧
  (∀ s : State, busy s = false ↔ s.phase = .ready) ∧
  (∀ (p : PortsIn) (s : State) (sel : BitVec 3) (addr : BitVec 16), tick { p with obsSel := sel, obsAddr := addr } s = tick p s)

/-- The FSM implements the step: from IDLE, a start, any number of cycles in which the host does not act, and the host's acknowledgement
leave the core and the host's record as the step leaves them; an instruction without a handshake needs the start alone; and where the
host does not act at all, the start leaves the FSM where the step leaves it (the spec's decision D7; log entry 7). -/
def Obligations.TicksImplementStep : Prop :=
  ∀ (s t : State) (p : PortsIn), s.phase = .ready → s.halted = false → p.rst = false → p.start = true → step s = .next t →
    (fetchInstr s ≠ .inp → fetchInstr s ≠ .out ∨ s.a = sentinel → tick p s = .next t) ∧
    (t.phase ≠ .ready → tick p s = .next t) ∧
    (∀ (waits : List PortsIn) (q : PortsIn), t.phase = .ready → q.rst = false →
      (∀ w ∈ waits, w.rst = false ∧ w.inAck = false ∧ w.outAck = false) →
      (fetchInstr s = .inp → (q.inAck = true ∧ ∃ ad, s.adapter.readByte = some (q.answer, ad)) →
        ∃ u, ticks (p :: waits ++ [q]) s = .next u ∧ SameCoreAndRecord t u) ∧
      (fetchInstr s = .out → s.a ≠ sentinel → q.outAck = true →
        ∃ u, ticks (p :: waits ++ [q]) s = .next u ∧ SameCoreAndRecord t u))

/-! Invariants. -/

/-- The state after reset, with any canonical image, is one the machine can be in. -/
def Obligations.ResetIsCoherent : Prop :=
  Coherent State.reset ∧ ∀ image : Memory, image.wf → Coherent (boot image)

/-- Every step keeps the machine coherent: memory canonical, halted only between steps, a wait only at the instruction that waits, with
the right byte on offer. -/
def Obligations.StepKeepsCoherent : Prop :=
  ∀ s t : State, Coherent s → step s = .next t → Coherent t

/-- Every tick, whatever the ports carry, keeps the machine coherent. -/
def Obligations.TickKeepsCoherent : Prop :=
  ∀ (p : PortsIn) (s t : State), Coherent s → tick p s = .next t → Coherent t

/-- No step and no tick, a tick under reset included, changes the machine's parameter: the model's choice (log entries 4 and 21). -/
def Obligations.ParameterIsFixed : Prop :=
  (∀ s t : State, step s = .next t → t.haltAdvancesPointers = s.haltAdvancesPointers) ∧
  (∀ (p : PortsIn) (s t : State), tick p s = .next t → t.haltAdvancesPointers = s.haltAdvancesPointers)

/-- Two canonical memories that read the same everywhere are equal data (the representation of log entries 2 and 3). -/
def Obligations.CanonicalMemoriesAreEqualData : Prop :=
  ∀ m n : Memory, m.wf → n.wf → (∀ x : Word, m.read x = n.read x) → m = n

/-! The Loader (spec 30_encoding.md, section 6). -/

/-- Comments (R64): a comment runs to the next closing parenthesis and does not nest; every character inside it gives no word; a comment
with no end is an error. -/
def Obligations.LoaderSkipsComments : Prop :=
  (∀ body rest : List Char, ')' ∉ body → scan false ('(' :: body ++ ')' :: rest) = scan false rest) ∧
  (∀ body : List Char, ')' ∉ body → scan false ('(' :: body) = .error .unterminatedComment)

/-- Whitespace, and the Loader's errors, each after a prefix that is in order. The set of whitespace characters is the spec's own decision
D11, from general knowledge; which of several errors is reported is the model's choice, the first in text order (log entry 15). -/
def Obligations.LoaderSpaceAndErrors : Prop :=
  (∀ (c : Char) (rest : List Char), c.toNat = 0x20 ∨ c.toNat = 0x09 ∨ c.toNat = 0x0A ∨ c.toNat = 0x0B ∨ c.toNat = 0x0C ∨
    c.toNat = 0x0D → scan false (c :: rest) = scan false rest) ∧
  (∀ (pre rest : List Char) (ws : List Word) (c : Char), scan false pre = .ok ws → c ≠ '(' → isLoaderSpace c = false →
    opcodeOfChar c = none → load (pre ++ c :: rest) = .error (.badCharacter c)) ∧
  (isLoaderSpace ')' = false ∧ opcodeOfChar ')' = none) ∧
  (∀ (pre body : List Char) (ws : List Word), scan false pre = .ok ws → ')' ∉ body →
    load (pre ++ '(' :: body) = .error .unterminatedComment) ∧
  (∀ (text : List Char) (ws : List Word), scan false text = .ok ws → 59049 < ws.length →
    load text = .error (.capacity ws.length 59049))

/-- The Loader's contract (R68): at most N words, each one of the eight codes, at consecutive addresses from 0, and 0 everywhere else; one
text has one result; a text of opcode characters gives their codes in order; the empty program is memory of zeros, which runs no-ops
however long. -/
def Obligations.LoaderImage : Prop :=
  (∀ (text : List Char) (ws : List Word), load text = .ok ws → ws.length ≤ 59049 ∧ ∀ w ∈ ws, w ∈ opcodes) ∧
  (∀ ws : List Word, ws.length ≤ 59049 → (imageFrom 0 ws).wf ∧ ∀ x : Word, (imageFrom 0 ws).read x = ws.getD x.val 0) ∧
  (∀ (text : List Char) (ws ws' : List Word), load text = .ok ws → load text = .ok ws' → ws = ws') ∧
  (∀ ws : List Word, ws.length ≤ 59049 → (∀ w ∈ ws, w ∈ opcodes) → load (ws.map fun w => Char.ofNat w.val) = .ok ws) ∧
  load [] = .ok [] ∧
  (∀ k : Nat, ∃ t, steps k (boot (imageFrom 0 [])) = .next t ∧ t.halted = false ∧ ∀ x : Word, t.mem.read x = 0)
end

