-- ==== Sys2Proof/Laws/Alu.lean ====
section
/-! SUPPORT. Trits and words: a word is its ten trits (spec 00_scope.md R12). -/

namespace Sys2Proof.Machine

@[simp] theorem trit_val (x : Word) (i : Nat) : (trit x i).val = x.val / 3 ^ i % 3 := rfl

/-- A word is the word of its trits (R12). -/
theorem fromTrits_trit (x : Word) : fromTrits (fun i => trit x i.val) = x := by
  apply Fin.ext
  simp only [fromTrits, trit_val]
  norm_num
  omega

/-- The trits of a word built from trits are those trits (R12). -/
theorem trit_fromTrits (t : Fin 10 → Trit) (i : Fin 10) : trit (fromTrits t) i.val = t i := by
  have cases : i = 0 ∨ i = 1 ∨ i = 2 ∨ i = 3 ∨ i = 4 ∨ i = 5 ∨ i = 6 ∨ i = 7 ∨ i = 8 ∨ i = 9 := by
    revert i; decide
  apply Fin.ext
  have h0 := (t 0).isLt; have h1 := (t 1).isLt; have h2 := (t 2).isLt; have h3 := (t 3).isLt; have h4 := (t 4).isLt
  have h5 := (t 5).isLt; have h6 := (t 6).isLt; have h7 := (t 7).isLt; have h8 := (t 8).isLt; have h9 := (t 9).isLt
  simp only [trit_val, fromTrits]
  rcases cases with rfl | rfl | rfl | rfl | rfl | rfl | rfl | rfl | rfl | rfl <;> norm_num <;> omega

/-- Words with the same ten trits are equal. -/
theorem word_ext {x y : Word} (h : ∀ i : Fin 10, trit x i.val = trit y i.val) : x = y := by
  rw [← fromTrits_trit x, ← fromTrits_trit y]
  exact congrArg fromTrits (funext h)

end Sys2Proof.Machine
end

