-- ==== Sys2Proof/Laws/Decode.lean ====
section
/-! SUPPORT. The small lemmas of decoding and of the stored form. -/

namespace Sys2Proof

/-- A word's stored form has the word's value (R9). -/
theorem storedForm_toNat (w : Word) : (storedForm w).toNat = w.val := by
  have := w.isLt
  simp only [storedForm, BitVec.toNat_ofNat]
  omega

/-- A word that is none of the eight codes decodes as the default row (R57). -/
theorem decode_of_not_opcode {w : Word} (h : w ∉ opcodes) : decode w = .nopDefault w := by
  simp only [opcodes, List.mem_cons, List.not_mem_nil, or_false, not_or, Fin.ext_iff] at h
  obtain ⟨h1, h2, h3, h4, h5, h6, h7, h8⟩ := h
  simp only [decode]
  repeat rw [if_neg (by assumption)]

end Sys2Proof
end

