-- ==== Sys2Proof/Laws/State.lean ====
section
/-! SUPPORT. One lemma per field per update of the state, true by definition, so that no proof unfolds a record update. -/

namespace Sys2Proof.Machine

@[simp] theorem setA_a (v : Word) (s : State) : (setA v s).a = v := rfl
@[simp] theorem setA_c (v : Word) (s : State) : (setA v s).c = s.c := rfl
@[simp] theorem setA_d (v : Word) (s : State) : (setA v s).d = s.d := rfl
@[simp] theorem setA_halted (v : Word) (s : State) : (setA v s).halted = s.halted := rfl
@[simp] theorem setA_hitEof (v : Word) (s : State) : (setA v s).hitEof = s.hitEof := rfl
@[simp] theorem setA_mem (v : Word) (s : State) : (setA v s).mem = s.mem := rfl
@[simp] theorem setA_phase (v : Word) (s : State) : (setA v s).phase = s.phase := rfl
@[simp] theorem setA_haltAdvancesPointers (v : Word) (s : State) : (setA v s).haltAdvancesPointers = s.haltAdvancesPointers := rfl
@[simp] theorem setA_adapter (v : Word) (s : State) : (setA v s).adapter = s.adapter := rfl

@[simp] theorem setC_a (v : Word) (s : State) : (setC v s).a = s.a := rfl
@[simp] theorem setC_c (v : Word) (s : State) : (setC v s).c = v := rfl
@[simp] theorem setC_d (v : Word) (s : State) : (setC v s).d = s.d := rfl
@[simp] theorem setC_halted (v : Word) (s : State) : (setC v s).halted = s.halted := rfl
@[simp] theorem setC_hitEof (v : Word) (s : State) : (setC v s).hitEof = s.hitEof := rfl
@[simp] theorem setC_mem (v : Word) (s : State) : (setC v s).mem = s.mem := rfl
@[simp] theorem setC_phase (v : Word) (s : State) : (setC v s).phase = s.phase := rfl
@[simp] theorem setC_haltAdvancesPointers (v : Word) (s : State) : (setC v s).haltAdvancesPointers = s.haltAdvancesPointers := rfl
@[simp] theorem setC_adapter (v : Word) (s : State) : (setC v s).adapter = s.adapter := rfl

@[simp] theorem setD_a (v : Word) (s : State) : (setD v s).a = s.a := rfl
@[simp] theorem setD_c (v : Word) (s : State) : (setD v s).c = s.c := rfl
@[simp] theorem setD_d (v : Word) (s : State) : (setD v s).d = v := rfl
@[simp] theorem setD_halted (v : Word) (s : State) : (setD v s).halted = s.halted := rfl
@[simp] theorem setD_hitEof (v : Word) (s : State) : (setD v s).hitEof = s.hitEof := rfl
@[simp] theorem setD_mem (v : Word) (s : State) : (setD v s).mem = s.mem := rfl
@[simp] theorem setD_phase (v : Word) (s : State) : (setD v s).phase = s.phase := rfl
@[simp] theorem setD_haltAdvancesPointers (v : Word) (s : State) : (setD v s).haltAdvancesPointers = s.haltAdvancesPointers := rfl
@[simp] theorem setD_adapter (v : Word) (s : State) : (setD v s).adapter = s.adapter := rfl

@[simp] theorem setPhase_a (p : Phase) (s : State) : (setPhase p s).a = s.a := rfl
@[simp] theorem setPhase_c (p : Phase) (s : State) : (setPhase p s).c = s.c := rfl
@[simp] theorem setPhase_d (p : Phase) (s : State) : (setPhase p s).d = s.d := rfl
@[simp] theorem setPhase_halted (p : Phase) (s : State) : (setPhase p s).halted = s.halted := rfl
@[simp] theorem setPhase_hitEof (p : Phase) (s : State) : (setPhase p s).hitEof = s.hitEof := rfl
@[simp] theorem setPhase_mem (p : Phase) (s : State) : (setPhase p s).mem = s.mem := rfl
@[simp] theorem setPhase_phase (p : Phase) (s : State) : (setPhase p s).phase = p := rfl
@[simp] theorem setPhase_haltAdvancesPointers (p : Phase) (s : State) : (setPhase p s).haltAdvancesPointers = s.haltAdvancesPointers := rfl
@[simp] theorem setPhase_adapter (p : Phase) (s : State) : (setPhase p s).adapter = s.adapter := rfl

@[simp] theorem setMem_a (m : Memory) (s : State) : (setMem m s).a = s.a := rfl
@[simp] theorem setMem_c (m : Memory) (s : State) : (setMem m s).c = s.c := rfl
@[simp] theorem setMem_d (m : Memory) (s : State) : (setMem m s).d = s.d := rfl
@[simp] theorem setMem_halted (m : Memory) (s : State) : (setMem m s).halted = s.halted := rfl
@[simp] theorem setMem_hitEof (m : Memory) (s : State) : (setMem m s).hitEof = s.hitEof := rfl
@[simp] theorem setMem_mem (m : Memory) (s : State) : (setMem m s).mem = m := rfl
@[simp] theorem setMem_phase (m : Memory) (s : State) : (setMem m s).phase = s.phase := rfl
@[simp] theorem setMem_haltAdvancesPointers (m : Memory) (s : State) : (setMem m s).haltAdvancesPointers = s.haltAdvancesPointers := rfl
@[simp] theorem setMem_adapter (m : Memory) (s : State) : (setMem m s).adapter = s.adapter := rfl

@[simp] theorem setAdapter_a (ad : Adapter) (s : State) : (setAdapter ad s).a = s.a := rfl
@[simp] theorem setAdapter_c (ad : Adapter) (s : State) : (setAdapter ad s).c = s.c := rfl
@[simp] theorem setAdapter_d (ad : Adapter) (s : State) : (setAdapter ad s).d = s.d := rfl
@[simp] theorem setAdapter_halted (ad : Adapter) (s : State) : (setAdapter ad s).halted = s.halted := rfl
@[simp] theorem setAdapter_hitEof (ad : Adapter) (s : State) : (setAdapter ad s).hitEof = s.hitEof := rfl
@[simp] theorem setAdapter_mem (ad : Adapter) (s : State) : (setAdapter ad s).mem = s.mem := rfl
@[simp] theorem setAdapter_phase (ad : Adapter) (s : State) : (setAdapter ad s).phase = s.phase := rfl
@[simp] theorem setAdapter_haltAdvancesPointers (ad : Adapter) (s : State) : (setAdapter ad s).haltAdvancesPointers = s.haltAdvancesPointers := rfl
@[simp] theorem setAdapter_adapter (ad : Adapter) (s : State) : (setAdapter ad s).adapter = ad := rfl

@[simp] theorem setHalted_a (s : State) : (setHalted s).a = s.a := rfl
@[simp] theorem setHalted_c (s : State) : (setHalted s).c = s.c := rfl
@[simp] theorem setHalted_d (s : State) : (setHalted s).d = s.d := rfl
@[simp] theorem setHalted_halted (s : State) : (setHalted s).halted = true := rfl
@[simp] theorem setHalted_hitEof (s : State) : (setHalted s).hitEof = s.hitEof := rfl
@[simp] theorem setHalted_mem (s : State) : (setHalted s).mem = s.mem := rfl
@[simp] theorem setHalted_phase (s : State) : (setHalted s).phase = s.phase := rfl
@[simp] theorem setHalted_haltAdvancesPointers (s : State) : (setHalted s).haltAdvancesPointers = s.haltAdvancesPointers := rfl
@[simp] theorem setHalted_adapter (s : State) : (setHalted s).adapter = s.adapter := rfl

@[simp] theorem setHitEof_a (s : State) : (setHitEof s).a = s.a := rfl
@[simp] theorem setHitEof_c (s : State) : (setHitEof s).c = s.c := rfl
@[simp] theorem setHitEof_d (s : State) : (setHitEof s).d = s.d := rfl
@[simp] theorem setHitEof_halted (s : State) : (setHitEof s).halted = s.halted := rfl
@[simp] theorem setHitEof_hitEof (s : State) : (setHitEof s).hitEof = true := rfl
@[simp] theorem setHitEof_mem (s : State) : (setHitEof s).mem = s.mem := rfl
@[simp] theorem setHitEof_phase (s : State) : (setHitEof s).phase = s.phase := rfl
@[simp] theorem setHitEof_haltAdvancesPointers (s : State) : (setHitEof s).haltAdvancesPointers = s.haltAdvancesPointers := rfl
@[simp] theorem setHitEof_adapter (s : State) : (setHitEof s).adapter = s.adapter := rfl

@[simp] theorem advance_a (s : State) : (advance s).a = s.a := rfl
@[simp] theorem advance_c (s : State) : (advance s).c = incr s.c := rfl
@[simp] theorem advance_d (s : State) : (advance s).d = incr s.d := rfl
@[simp] theorem advance_halted (s : State) : (advance s).halted = s.halted := rfl
@[simp] theorem advance_hitEof (s : State) : (advance s).hitEof = s.hitEof := rfl
@[simp] theorem advance_mem (s : State) : (advance s).mem = s.mem := rfl
@[simp] theorem advance_phase (s : State) : (advance s).phase = s.phase := rfl
@[simp] theorem advance_haltAdvancesPointers (s : State) : (advance s).haltAdvancesPointers = s.haltAdvancesPointers := rfl
@[simp] theorem advance_adapter (s : State) : (advance s).adapter = s.adapter := rfl

@[simp] theorem storeResult_a (r : Word) (s : State) : (storeResult r s).a = r := rfl
@[simp] theorem storeResult_c (r : Word) (s : State) : (storeResult r s).c = s.c := rfl
@[simp] theorem storeResult_d (r : Word) (s : State) : (storeResult r s).d = s.d := rfl
@[simp] theorem storeResult_halted (r : Word) (s : State) : (storeResult r s).halted = s.halted := rfl
@[simp] theorem storeResult_hitEof (r : Word) (s : State) : (storeResult r s).hitEof = s.hitEof := rfl
@[simp] theorem storeResult_mem (r : Word) (s : State) : (storeResult r s).mem = s.mem.write s.d r := rfl
@[simp] theorem storeResult_phase (r : Word) (s : State) : (storeResult r s).phase = s.phase := rfl
@[simp] theorem storeResult_haltAdvancesPointers (r : Word) (s : State) : (storeResult r s).haltAdvancesPointers = s.haltAdvancesPointers := rfl
@[simp] theorem storeResult_adapter (r : Word) (s : State) : (storeResult r s).adapter = s.adapter := rfl

@[simp] theorem resetCore_a (s : State) : (resetCore s).a = 0 := rfl
@[simp] theorem resetCore_c (s : State) : (resetCore s).c = 0 := rfl
@[simp] theorem resetCore_d (s : State) : (resetCore s).d = 0 := rfl
@[simp] theorem resetCore_halted (s : State) : (resetCore s).halted = false := rfl
@[simp] theorem resetCore_hitEof (s : State) : (resetCore s).hitEof = false := rfl
@[simp] theorem resetCore_mem (s : State) : (resetCore s).mem = s.mem := rfl
@[simp] theorem resetCore_phase (s : State) : (resetCore s).phase = .reset := rfl
@[simp] theorem resetCore_haltAdvancesPointers (s : State) : (resetCore s).haltAdvancesPointers = s.haltAdvancesPointers := rfl
@[simp] theorem resetCore_adapter (s : State) : (resetCore s).adapter = s.adapter := rfl

@[simp] theorem Adapter.logAnswer_answers (ans : InAnswer) (ad : Adapter) : (Adapter.logAnswer ans ad).answers = ad.answers := rfl
@[simp] theorem Adapter.logAnswer_afterwards (ans : InAnswer) (ad : Adapter) : (Adapter.logAnswer ans ad).afterwards = ad.afterwards := rfl
@[simp] theorem Adapter.logAnswer_answered (ans : InAnswer) (ad : Adapter) : (Adapter.logAnswer ans ad).answered = ad.answered ++ [ans] := rfl
@[simp] theorem Adapter.logAnswer_taken (ans : InAnswer) (ad : Adapter) : (Adapter.logAnswer ans ad).taken = ad.taken := rfl
@[simp] theorem Adapter.logAnswer_takes (ans : InAnswer) (ad : Adapter) : (Adapter.logAnswer ans ad).takes = ad.takes := rfl

@[simp] theorem Adapter.logByte_answers (b : Byte) (ad : Adapter) : (Adapter.logByte b ad).answers = ad.answers := rfl
@[simp] theorem Adapter.logByte_afterwards (b : Byte) (ad : Adapter) : (Adapter.logByte b ad).afterwards = ad.afterwards := rfl
@[simp] theorem Adapter.logByte_answered (b : Byte) (ad : Adapter) : (Adapter.logByte b ad).answered = ad.answered := rfl
@[simp] theorem Adapter.logByte_taken (b : Byte) (ad : Adapter) : (Adapter.logByte b ad).taken = ad.taken ++ [b] := rfl
@[simp] theorem Adapter.logByte_takes (b : Byte) (ad : Adapter) : (Adapter.logByte b ad).takes = ad.takes := rfl

end Sys2Proof.Machine
end

