-- ==== Sys2Proof/Laws/Handshake.lean ====
section
/-! SUPPORT. What the adapter, the handshakes and the halting step can do, said once. -/

namespace Sys2Proof.Machine

/-! The halting step (R87). -/

@[simp] theorem advanceOnHalt_a (s : State) : (advanceOnHalt s).a = s.a := by unfold advanceOnHalt; split <;> rfl
@[simp] theorem advanceOnHalt_c (s : State) :
    (advanceOnHalt s).c = if s.haltAdvancesPointers then incr s.c else s.c := by unfold advanceOnHalt; split <;> simp_all
@[simp] theorem advanceOnHalt_d (s : State) :
    (advanceOnHalt s).d = if s.haltAdvancesPointers then incr s.d else s.d := by unfold advanceOnHalt; split <;> simp_all
@[simp] theorem advanceOnHalt_halted (s : State) : (advanceOnHalt s).halted = s.halted := by unfold advanceOnHalt; split <;> rfl
@[simp] theorem advanceOnHalt_hitEof (s : State) : (advanceOnHalt s).hitEof = s.hitEof := by unfold advanceOnHalt; split <;> rfl
@[simp] theorem advanceOnHalt_mem (s : State) : (advanceOnHalt s).mem = s.mem := by unfold advanceOnHalt; split <;> rfl
@[simp] theorem advanceOnHalt_phase (s : State) : (advanceOnHalt s).phase = s.phase := by unfold advanceOnHalt; split <;> rfl
@[simp] theorem advanceOnHalt_haltAdvancesPointers (s : State) :
    (advanceOnHalt s).haltAdvancesPointers = s.haltAdvancesPointers := by unfold advanceOnHalt; split <;> rfl
@[simp] theorem advanceOnHalt_adapter (s : State) : (advanceOnHalt s).adapter = s.adapter := by unfold advanceOnHalt; split <;> rfl

@[simp] theorem haltStep_a (s : State) : (haltStep s).a = s.a := by simp [haltStep]
@[simp] theorem haltStep_c (s : State) : (haltStep s).c = if s.haltAdvancesPointers then incr s.c else s.c :=
  advanceOnHalt_c (setHalted s)
@[simp] theorem haltStep_d (s : State) : (haltStep s).d = if s.haltAdvancesPointers then incr s.d else s.d :=
  advanceOnHalt_d (setHalted s)
@[simp] theorem haltStep_halted (s : State) : (haltStep s).halted = true := by simp [haltStep]
@[simp] theorem haltStep_hitEof (s : State) : (haltStep s).hitEof = s.hitEof := by simp [haltStep]
@[simp] theorem haltStep_mem (s : State) : (haltStep s).mem = s.mem := by simp [haltStep]
@[simp] theorem haltStep_phase (s : State) : (haltStep s).phase = s.phase := by simp [haltStep]
@[simp] theorem haltStep_haltAdvancesPointers (s : State) :
    (haltStep s).haltAdvancesPointers = s.haltAdvancesPointers := by simp [haltStep]
@[simp] theorem haltStep_adapter (s : State) : (haltStep s).adapter = s.adapter := by simp [haltStep]

/-! What an input answer writes (R113, R115). -/

@[simp] theorem takeAnswer_c (ans : InAnswer) (s : State) : (takeAnswer ans s).c = s.c := by cases ans <;> rfl
@[simp] theorem takeAnswer_d (ans : InAnswer) (s : State) : (takeAnswer ans s).d = s.d := by cases ans <;> rfl
@[simp] theorem takeAnswer_halted (ans : InAnswer) (s : State) : (takeAnswer ans s).halted = s.halted := by cases ans <;> rfl
@[simp] theorem takeAnswer_mem (ans : InAnswer) (s : State) : (takeAnswer ans s).mem = s.mem := by cases ans <;> rfl
@[simp] theorem takeAnswer_phase (ans : InAnswer) (s : State) : (takeAnswer ans s).phase = s.phase := by cases ans <;> rfl
@[simp] theorem takeAnswer_adapter (ans : InAnswer) (s : State) : (takeAnswer ans s).adapter = s.adapter := by cases ans <;> rfl
@[simp] theorem takeAnswer_haltAdvancesPointers (ans : InAnswer) (s : State) :
    (takeAnswer ans s).haltAdvancesPointers = s.haltAdvancesPointers := by cases ans <;> rfl
@[simp] theorem takeAnswer_byte_a (b : Byte) (s : State) : (takeAnswer (.byte b) s).a = zextByte b := rfl
@[simp] theorem takeAnswer_eof_a (s : State) : (takeAnswer .eof s).a = sentinel := rfl
@[simp] theorem takeAnswer_byte_hitEof (b : Byte) (s : State) : (takeAnswer (.byte b) s).hitEof = s.hitEof := rfl
@[simp] theorem takeAnswer_eof_hitEof (s : State) : (takeAnswer .eof s).hitEof = true := rfl

/-! The acknowledging transitions (R95). -/

@[simp] theorem commitIn_c (ans : InAnswer) (ad : Adapter) (s : State) : (commitIn ans ad s).c = incr s.c := by simp [commitIn]
@[simp] theorem commitIn_d (ans : InAnswer) (ad : Adapter) (s : State) : (commitIn ans ad s).d = incr s.d := by simp [commitIn]
@[simp] theorem commitIn_halted (ans : InAnswer) (ad : Adapter) (s : State) : (commitIn ans ad s).halted = s.halted := by
  simp [commitIn]
@[simp] theorem commitIn_mem (ans : InAnswer) (ad : Adapter) (s : State) : (commitIn ans ad s).mem = s.mem := by simp [commitIn]
@[simp] theorem commitIn_phase (ans : InAnswer) (ad : Adapter) (s : State) : (commitIn ans ad s).phase = .ready := by
  simp [commitIn]
@[simp] theorem commitIn_adapter (ans : InAnswer) (ad : Adapter) (s : State) : (commitIn ans ad s).adapter = ad := by
  simp [commitIn]
@[simp] theorem commitIn_haltAdvancesPointers (ans : InAnswer) (ad : Adapter) (s : State) :
    (commitIn ans ad s).haltAdvancesPointers = s.haltAdvancesPointers := by simp [commitIn]
@[simp] theorem commitIn_byte_a (b : Byte) (ad : Adapter) (s : State) : (commitIn (.byte b) ad s).a = zextByte b := rfl
@[simp] theorem commitIn_eof_a (ad : Adapter) (s : State) : (commitIn .eof ad s).a = sentinel := rfl
@[simp] theorem commitIn_byte_hitEof (b : Byte) (ad : Adapter) (s : State) : (commitIn (.byte b) ad s).hitEof = s.hitEof := rfl
@[simp] theorem commitIn_eof_hitEof (ad : Adapter) (s : State) : (commitIn .eof ad s).hitEof = true := rfl

@[simp] theorem commitOut_a (ad : Adapter) (s : State) : (commitOut ad s).a = s.a := rfl
@[simp] theorem commitOut_c (ad : Adapter) (s : State) : (commitOut ad s).c = incr s.c := rfl
@[simp] theorem commitOut_d (ad : Adapter) (s : State) : (commitOut ad s).d = incr s.d := rfl
@[simp] theorem commitOut_halted (ad : Adapter) (s : State) : (commitOut ad s).halted = s.halted := rfl
@[simp] theorem commitOut_hitEof (ad : Adapter) (s : State) : (commitOut ad s).hitEof = s.hitEof := rfl
@[simp] theorem commitOut_mem (ad : Adapter) (s : State) : (commitOut ad s).mem = s.mem := rfl
@[simp] theorem commitOut_phase (ad : Adapter) (s : State) : (commitOut ad s).phase = .ready := rfl
@[simp] theorem commitOut_haltAdvancesPointers (ad : Adapter) (s : State) :
    (commitOut ad s).haltAdvancesPointers = s.haltAdvancesPointers := rfl
@[simp] theorem commitOut_adapter (ad : Adapter) (s : State) : (commitOut ad s).adapter = ad := rfl

/-! The adapter's script (R111). -/

/-- An answered request: the answer joins the record and leaves the queue, and nothing else of the adapter changes. -/
theorem readByte_some {ad ad' : Adapter} {ans : InAnswer} (h : ad.readByte = some (ans, ad')) :
    ad'.answered = ad.answered ++ [ans] ∧ ad'.taken = ad.taken ∧ ad'.takes = ad.takes ∧ ad'.afterwards = ad.afterwards ∧
      (ad.answers = ans :: ad'.answers ∨ (ad.answers = [] ∧ ad'.answers = [] ∧ ad.afterwards = .eof ∧ ans = .eof)) := by
  unfold Adapter.readByte at h
  split at h
  · next hq => cases h; simp [hq]
  · next hq =>
    split at h
    · next ha => cases h; simp [hq, ha]
    · cases h

/-- A request goes unanswered exactly when the queue is empty and the host is silent. -/
theorem readByte_none {ad : Adapter} : ad.readByte = none ↔ ad.answers = [] ∧ ad.afterwards = .silent := by
  unfold Adapter.readByte
  split
  · next hq => simp [hq]
  · next hq => split <;> simp_all

/-- A byte taken joins the output sequence, and nothing else of the adapter changes but how many bytes it will still take. -/
theorem writeByte_some {ad ad' : Adapter} {b : Byte} (h : ad.writeByte b = some ad') :
    ad'.taken = ad.taken ++ [b] ∧ ad'.answered = ad.answered ∧ ad'.answers = ad.answers ∧ ad'.afterwards = ad.afterwards := by
  unfold Adapter.writeByte at h
  split at h <;> cases h <;> simp

/-- A byte is not taken exactly when the host will take no more. -/
theorem writeByte_none {ad : Adapter} {b : Byte} : ad.writeByte b = none ↔ ad.takes = .atMost 0 := by
  unfold Adapter.writeByte
  split <;> simp_all

/-- An input request is answered and commits, or leaves the core in WAIT_IN. -/
theorem requestIn_cases (s : State) :
    (∃ ans ad, s.adapter.readByte = some (ans, ad) ∧ requestIn s = commitIn ans ad s) ∨
      (s.adapter.readByte = none ∧ requestIn s = setPhase .waitIn s) := by
  unfold requestIn
  split
  · next ans ad h => exact .inl ⟨ans, ad, h, rfl⟩
  · next h => exact .inr ⟨h, rfl⟩

/-- An output byte is taken and commits, or leaves the core in WAIT_OUT. -/
theorem offerOut_cases (b : Byte) (s : State) :
    (∃ ad, s.adapter.writeByte b = some ad ∧ offerOut b s = commitOut ad s) ∨
      (s.adapter.writeByte b = none ∧ offerOut b s = setPhase (.waitOut b) s) := by
  unfold offerOut
  split
  · next ad h => exact .inl ⟨ad, h, rfl⟩
  · next h => exact .inr ⟨h, rfl⟩

end Sys2Proof.Machine
end

