-- ==== Sys2Proof/Laws/Memory.lean ====
section
/-! SUPPORT. The laws of memory: read after write, and that every operation keeps the canonical form. -/

namespace Sys2Proof.Machine

@[simp] theorem Memory.read_nil (x : Word) : Memory.read [] x = Memory.unlisted := rfl

theorem Memory.read_cons (p : Word × Word) (m : Memory) (x : Word) :
    Memory.read (p :: m) x = if p.1 = x then p.2 else Memory.read m x := rfl

/-- An address with no entry reads as the unlisted word. -/
theorem Memory.read_of_absent (m : Memory) (x : Word) (h : ∀ p ∈ m, p.1 ≠ x) : m.read x = Memory.unlisted := by
  induction m with
  | nil => rfl
  | cons p m ih =>
    rw [Memory.read_cons, if_neg (h p (by simp))]
    exact ih fun q hq => h q (by simp [hq])

theorem Memory.read_erase_same (m : Memory) (x : Word) : (m.erase x).read x = Memory.unlisted :=
  Memory.read_of_absent _ x fun p hp => by simpa [Memory.erase] using (List.mem_filter.1 hp).2

theorem Memory.read_erase_other (m : Memory) {x y : Word} (h : y ≠ x) : (m.erase x).read y = m.read y := by
  induction m with
  | nil => rfl
  | cons p m ih =>
    by_cases hp : p.1 = x
    · have hy : p.1 ≠ y := fun e => h (e.symm.trans hp)
      rw [Memory.read_cons, if_neg hy, ← ih]
      simp [Memory.erase, hp]
    · have : Memory.erase (p :: m) x = p :: Memory.erase m x := by simp [Memory.erase, hp]
      rw [this, Memory.read_cons, Memory.read_cons, ih]

theorem Memory.read_insert_same (m : Memory) (x v : Word) (h : ∀ p ∈ m, p.1 ≠ x) : (m.insert x v).read x = v := by
  induction m with
  | nil => simp [Memory.insert, Memory.read]
  | cons p m ih =>
    have hp : p.1 ≠ x := h p (by simp)
    have ih := ih fun q hq => h q (by simp [hq])
    unfold Memory.insert
    split
    · simp [Memory.read]
    · rw [Memory.read_cons, if_neg hp, ih]

theorem Memory.read_insert_other (m : Memory) {x y : Word} (v : Word) (h : y ≠ x) : (m.insert x v).read y = m.read y := by
  induction m with
  | nil => simp [Memory.insert, Memory.read, h.symm]
  | cons p m ih =>
    unfold Memory.insert
    split
    · simp [Memory.read, h.symm]
    · rw [Memory.read_cons, Memory.read_cons, ih]

/-- A read after a write to the same address gives the word written (R45). -/
@[simp] theorem Memory.read_write_same (m : Memory) (x v : Word) : (m.write x v).read x = v := by
  unfold Memory.write
  split
  · next h => rw [Memory.read_erase_same, h]
  · exact Memory.read_insert_same _ _ _ fun p hp => by simpa [Memory.erase] using (List.mem_filter.1 hp).2

/-- A write leaves every other address alone (R37, R51). -/
theorem Memory.read_write_other (m : Memory) {x y : Word} (v : Word) (h : y ≠ x) : (m.write x v).read y = m.read y := by
  unfold Memory.write
  split
  · exact Memory.read_erase_other m h
  · rw [Memory.read_insert_other _ v h, Memory.read_erase_other m h]

theorem Memory.read_write (m : Memory) (x y v : Word) : (m.write x v).read y = if y = x then v else m.read y := by
  split
  · next h => rw [h, Memory.read_write_same]
  · next h => exact Memory.read_write_other m v h

theorem Memory.mem_insert {m : Memory} {x v : Word} {p : Word × Word} (h : p ∈ m.insert x v) : p = (x, v) ∨ p ∈ m := by
  induction m with
  | nil => simpa [Memory.insert] using h
  | cons q m ih =>
    unfold Memory.insert at h
    split at h
    · simpa using h
    · rcases List.mem_cons.1 h with rfl | h
      · exact .inr (by simp)
      · rcases ih h with h | h
        · exact .inl h
        · exact .inr (by simp [h])

/-- The canonical form with its second half as a statement about every pair. -/
theorem Memory.wf_iff (m : Memory) : m.wf ↔ m.Pairwise (fun p q => p.1 < q.1) ∧ ∀ p ∈ m, p.2 ≠ Memory.unlisted := by
  simp [Memory.wf]

theorem Memory.nil_wf : Memory.wf [] := by decide

theorem Memory.erase_wf {m : Memory} (h : m.wf) (x : Word) : (m.erase x).wf := by
  rw [Memory.wf_iff] at h ⊢
  exact ⟨h.1.filter _, fun p hp => h.2 p (List.mem_filter.1 hp).1⟩

theorem Memory.insert_wf {m : Memory} (h : m.wf) {x v : Word} (hx : ∀ p ∈ m, p.1 ≠ x) (hv : v ≠ Memory.unlisted) :
    (m.insert x v).wf := by
  rw [Memory.wf_iff] at h ⊢
  obtain ⟨hrise, hval⟩ := h
  refine ⟨?_, fun p hp => ?_⟩
  · clear hval
    induction m with
    | nil => simp [Memory.insert]
    | cons q m ih =>
      obtain ⟨hq, hm⟩ := List.pairwise_cons.1 hrise
      unfold Memory.insert
      split
      · next hlt =>
        refine List.pairwise_cons.2 ⟨fun p hp => ?_, hrise⟩
        rcases List.mem_cons.1 hp with rfl | hp
        · exact hlt
        · exact lt_trans hlt (hq p hp)
      · next hge =>
        refine List.pairwise_cons.2 ⟨fun p hp => ?_, ih (fun p hp => hx p (by simp [hp])) hm⟩
        rcases Memory.mem_insert hp with rfl | hp
        · exact lt_of_le_of_ne (not_lt.1 hge) (hx q (by simp))
        · exact hq p hp
  · rcases Memory.mem_insert hp with rfl | hp
    · exact hv
    · exact hval p hp

/-- A write keeps the canonical form. -/
theorem Memory.write_wf {m : Memory} (h : m.wf) (x v : Word) : (m.write x v).wf := by
  unfold Memory.write
  split
  · exact Memory.erase_wf h x
  · next hv =>
    exact Memory.insert_wf (Memory.erase_wf h x) (fun p hp => by simpa [Memory.erase] using (List.mem_filter.1 hp).2) hv

/-- Memory after reset is canonical. -/
theorem State.reset_mem_wf : State.reset.mem.wf := Memory.nil_wf

end Sys2Proof.Machine
end

