-- ==== Sys2Proof/Laws/PerInstr.lean ====
section
/-! SUPPORT. A statement for every instruction, by constructor: the word of a well-formed instruction matches its own row of the opcode
table (spec 30_encoding.md R54). -/

namespace Sys2Proof.Laws.TableRow

/-- The stored form of the instruction's word, under the row's mask, is the row's match. -/
def Statement (i : Instr) : Prop := WellFormed i = true → storedForm (encode i) &&& rowMask i = rowMatch i

theorem halt : Statement .halt := fun _ => by decide
theorem ldd : Statement .ldd := fun _ => by decide
theorem rot : Statement .rot := fun _ => by decide
theorem jmp : Statement .jmp := fun _ => by decide
theorem nop : Statement .nop := fun _ => by decide
theorem out : Statement .out := fun _ => by decide
theorem sub : Statement .sub := fun _ => by decide
theorem inp : Statement .inp := fun _ => by decide
theorem nopDefault (word : Word) : Statement (.nopDefault word) := fun _ => by simp [rowMask, rowMatch]

end Sys2Proof.Laws.TableRow
end

