-- ==== Sys2Proof/Laws/Step.lean ====
section
/-! SUPPORT. What each instruction, each step and each tick does, as equations to rewrite with. -/

namespace Sys2Proof.Machine

@[simp] theorem exec_halt (s : State) : exec .halt s = .next (haltStep s) := rfl
@[simp] theorem exec_ldd (s : State) : exec .ldd s = .next (advance (setD (data s) s)) := rfl
@[simp] theorem exec_rot (s : State) : exec .rot s = .next (advance (storeResult (rotate (data s)) s)) := rfl
@[simp] theorem exec_jmp (s : State) : exec .jmp s = .next (advance (setC (data s) s)) := rfl
@[simp] theorem exec_nop (s : State) : exec .nop s = .next (advance s) := rfl
@[simp] theorem exec_sub (s : State) : exec .sub s = .next (advance (storeResult (subtractDigitwise s.a (data s)) s)) := rfl
@[simp] theorem exec_inp (s : State) : exec .inp s = .next (requestIn s) := rfl
@[simp] theorem exec_nopDefault (w : Word) (s : State) : exec (.nopDefault w) s = .next (advance s) := rfl
theorem exec_out_sentinel {s : State} (h : s.a = sentinel) : exec .out s = .next (haltStep s) := if_pos h
theorem exec_out_byte {s : State} (h : s.a ≠ sentinel) : exec .out s = .next (offerOut (lowByte s.a) s) := if_neg h

theorem step_of_reset {s : State} (h : s.phase = .reset) : step s = .next s := by simp [step, stepWith, h]
theorem step_of_waitIn {s : State} (h : s.phase = .waitIn) : step s = .next (requestIn s) := by simp [step, stepWith, h]
theorem step_of_waitOut {s : State} {b : Byte} (h : s.phase = .waitOut b) : step s = .next (offerOut b s) := by
  simp [step, stepWith, h]
theorem step_of_halted {s : State} (h : s.phase = .ready) (hh : s.halted = true) : step s = .next s := by
  simp [step, stepWith, h, hh]

/-- What an instruction's next state owes to the start state whatever the instruction: memory is the old one, or the old one with one
write at `D` by ROT or SUB; the parameter stays. -/
theorem exec_mem {i : Instr} {s t : State} (h : exec i s = .next t) :
    t.mem = s.mem ∨ ((i = .rot ∨ i = .sub) ∧ ∃ r, t.mem = s.mem.write s.d r) := by
  cases i
  case rot => simp only [exec_rot] at h; cases h; exact .inr ⟨.inl rfl, _, rfl⟩
  case sub => simp only [exec_sub] at h; cases h; exact .inr ⟨.inr rfl, _, rfl⟩
  case out =>
    by_cases ha : s.a = sentinel
    · rw [exec_out_sentinel ha] at h; cases h; simp
    · rw [exec_out_byte ha] at h; cases h
      rcases offerOut_cases (lowByte s.a) s with ⟨ad, -, e⟩ | ⟨-, e⟩ <;> simp [e]
  case inp =>
    simp only [exec_inp] at h; cases h
    rcases requestIn_cases s with ⟨ans, ad, -, e⟩ | ⟨-, e⟩ <;> simp [e]
  all_goals simp only [exec_halt, exec_ldd, exec_jmp, exec_nop, exec_nopDefault] at h; cases h; simp

/-- An instruction keeps memory canonical. -/
theorem exec_keeps_wf {i : Instr} {s t : State} (h : exec i s = .next t) (hw : s.mem.wf) : t.mem.wf := by
  rcases exec_mem h with e | ⟨-, r, e⟩
  · rwa [e]
  · rw [e]; exact Memory.write_wf hw _ _

theorem tick_of_rst {p : PortsIn} {s : State} (h : p.rst = true) : tick p s = resetTick p s := by simp [tick, h]
theorem tick_of_reset {p : PortsIn} {s : State} (h : p.rst = false) (hp : s.phase = .reset) :
    tick p s = .next (setPhase .ready s) := by simp [tick, h, hp]
theorem tick_of_halted {p : PortsIn} {s : State} (h : p.rst = false) (hp : s.phase = .ready) (hh : s.halted = true) :
    tick p s = .next s := by simp [tick, h, hp, hh]
theorem tick_of_idle {p : PortsIn} {s : State} (h : p.rst = false) (hp : s.phase = .ready) (hh : s.halted = false) :
    tick p s = if p.start then startStep s else .next s := by simp [tick, h, hp, hh]
theorem tick_of_waitIn {p : PortsIn} {s : State} (h : p.rst = false) (hp : s.phase = .waitIn) :
    tick p s = if p.inAck then .next (commitIn p.answer (s.adapter.logAnswer p.answer) s) else .next s := by
  simp [tick, h, hp]
theorem tick_of_waitOut {p : PortsIn} {s : State} {b : Byte} (h : p.rst = false) (hp : s.phase = .waitOut b) :
    tick p s = if p.outAck then .next (commitOut (s.adapter.logByte b) s) else .next s := by simp [tick, h, hp]

/-- The load port keeps memory canonical. -/
theorem loadPort_keeps_wf {p : PortsIn} {m m' : Memory} (h : loadPort p m = some m') (hw : m.wf) : m'.wf := by
  unfold loadPort at h
  split at h
  · split at h
    · cases h; exact Memory.write_wf hw _ _
    · cases h
  · cases h; exact hw

end Sys2Proof.Machine
end

