-- ==== Sys2Proof/Tests/Slice0.lean ====
section
/-! SUPPORT. Tests on small states, with expected values from the spec's worked examples and from 95_test_vectors.md, and one witness for
the hypotheses of each statement of Certificates/Slice0/Obligations.lean. -/

namespace Sys2Proof.Tests

open Sys2Proof.Machine

/-- A state between steps, with the flags false and the host of State.reset. -/
def mk (a c d : Word) (cells : Memory) : State := { State.reset with a := a, c := c, d := d, mem := cells }

/-- The same with a list of input answers. -/
def mkIn (a c d : Word) (cells : Memory) (answers : List InAnswer) : State :=
  setAdapter { Adapter.atReset with answers := answers } (mk a c d cells)

/-- The same with a host that neither answers nor takes. -/
def mkDeaf (a c d : Word) (cells : Memory) : State :=
  setAdapter { Adapter.atReset with afterwards := .silent, takes := .atMost 0 } (mk a c d cells)

/-- (A, C, D, halted, hit_eof) after one step, as the spec writes states. -/
def after (s : State) : Option (Word × Word × Word × Bool × Bool) :=
  (nextOf (step s)).map fun t => (t.a, t.c, t.d, t.halted, t.hitEof)

/-- The word at an address after one step. -/
def wordAfter (s : State) (x : Word) : Option Word := (nextOf (step s)).map fun t => t.mem.read x

/-- The output sequence after one step. -/
def takenAfter (s : State) : Option (List Byte) := (nextOf (step s)).map fun t => t.adapter.taken

/-! Well-formedness: each check refuses an ill-formed term. -/

theorem test_wellFormed_refuses_default_row_of_an_opcode : WellFormed (.nopDefault 33) = false := by decide
theorem test_wellFormed_refuses_default_row_of_every_opcode :
    opcodes.all (fun w => !WellFormed (.nopDefault w)) = true := by decide
theorem test_wellFormed_admits_default_row : WellFormed (.nopDefault 0) = true ∧ WellFormed (.nopDefault 59048) = true := by decide

/-! Decoding: words written out bit by bit from the opcode table's encoding column. -/

theorem test_decode_halt : decodeStored 0b0000000000100001 = .ok .halt := by rfl
theorem test_decode_ldd : decodeStored 0b0000000000101010 = .ok .ldd := by rfl
theorem test_decode_rot : decodeStored 0b0000000000111110 = .ok .rot := by rfl
theorem test_decode_jmp : decodeStored 0b0000000001011110 = .ok .jmp := by rfl
theorem test_decode_nop : decodeStored 0b0000000001011111 = .ok .nop := by rfl
theorem test_decode_out : decodeStored 0b0000000001111011 = .ok .out := by rfl
theorem test_decode_sub : decodeStored 0b0000000001111100 = .ok .sub := by rfl
theorem test_decode_inp : decodeStored 0b0000000001111101 = .ok .inp := by rfl
theorem test_decode_default : decodeStored 0b0000000000000000 = .ok (.nopDefault 0) := by rfl
theorem test_decode_refuses_no_word : decodeStored 0b1110011010101001 = .error .notAWord := by rfl
-- R55, the base-3 column: the trits of HALT and IN, most significant first.
theorem test_trits_of_codes :
    ((List.range 10).reverse.map fun i => (trit 33 i).val) = [0, 0, 0, 0, 0, 0, 1, 0, 2, 0] ∧
    ((List.range 10).reverse.map fun i => (trit 125 i).val) = [0, 0, 0, 0, 0, 1, 1, 1, 2, 2] := by decide

/-! The arithmetic unit: V-ROT-3, 9, 13, 16, 26 and V-SUB-2, 6, 8, 15, 18, 19. -/

theorem test_rotate_vectors :
    rotate 2 = 39366 ∧ rotate 19683 = 6561 ∧ rotate 59047 = 39365 ∧ rotate 124 = 19724 ∧ rotate 99 = 33 := by decide
theorem test_subtract_vectors :
    subtractDigitwise 0 1 = 2 ∧ subtractDigitwise 5 7 = 7 ∧ subtractDigitwise 0 124 = 239 ∧ subtractDigitwise 3 1 = 5 ∧
    subtractDigitwise 29524 59048 = 59048 ∧ subtractDigitwise 100 200 = 227 := by decide

/-! The instructions. -/

theorem test_rot_V_ROT_30 :
    after (mk 7 3 9 [(3, 62), (9, 5)]) = some (39367, 4, 10, false, false) ∧
    wordAfter (mk 7 3 9 [(3, 62), (9, 5)]) 9 = some 39367 := by decide
theorem test_rot_V_ROT_31 :
    after (mk 0 7 7 [(7, 62)]) = some (39386, 8, 8, false, false) ∧ wordAfter (mk 0 7 7 [(7, 62)]) 7 = some 39386 := by decide
theorem test_sub_V_SUB_30 :
    after (mk 5 3 9 [(3, 124), (9, 7)]) = some (7, 4, 10, false, false) ∧
    wordAfter (mk 5 3 9 [(3, 124), (9, 7)]) 9 = some 7 := by decide
theorem test_sub_V_SUB_31 :
    after (mk 5 7 7 [(7, 124)]) = some (241, 8, 8, false, false) ∧ wordAfter (mk 5 7 7 [(7, 124)]) 7 = some 241 := by decide
theorem test_ldd_V_LDD_1_and_2 :
    after (mk 0 10 20 [(10, 42), (20, 500)]) = some (0, 11, 501, false, false) ∧
    after (mk 0 10 20 [(10, 42), (20, 59048)]) = some (0, 11, 0, false, false) := by decide
theorem test_ldd_V_LDD_3 : after (mk 0 0 0 [(0, 42)]) = some (0, 1, 43, false, false) := by decide
theorem test_jmp_V_JMP_1_and_2 :
    after (mk 0 10 20 [(10, 94), (20, 500)]) = some (0, 501, 21, false, false) ∧
    after (mk 0 10 20 [(10, 94), (20, 59048)]) = some (0, 0, 21, false, false) := by decide
theorem test_jmp_V_JMP_3 : after (mk 0 0 0 [(0, 94)]) = some (0, 95, 1, false, false) := by decide
theorem test_out_V_OUT_6_and_7 :
    takenAfter (mk 39386 3 9 [(3, 123)]) = some [0xDA] ∧ after (mk 39386 3 9 [(3, 123)]) = some (39386, 4, 10, false, false) ∧
    takenAfter (mk 59047 3 9 [(3, 123)]) = some [0xA7] := by decide
theorem test_out_V_OUT_8 :
    takenAfter (mk 59048 3 9 [(3, 123)]) = some [] ∧ after (mk 59048 3 9 [(3, 123)]) = some (59048, 4, 10, true, false) ∧
    after { mk 59048 3 9 [(3, 123)] with haltAdvancesPointers := false } = some (59048, 3, 9, true, false) := by decide
theorem test_in_V_IN_3_and_5 :
    after (mkIn 7 3 9 [(3, 125)] [.byte 0xFF]) = some (255, 4, 10, false, false) ∧
    after { mkIn 7 3 9 [(3, 125)] [.byte 0x42] with hitEof := true } = some (66, 4, 10, false, true) := by decide
theorem test_in_V_IN_4_and_7 :
    after (mkIn 7 3 9 [(3, 125)] []) = some (59048, 4, 10, false, true) ∧
    after (mkDeaf 7 3 9 [(3, 125)]) = some (7, 3, 9, false, false) ∧
    (nextOf (step (mkDeaf 7 3 9 [(3, 125)]))).map (fun t => t.phase) = some .waitIn := by decide
theorem test_halt_V_HALT_1 :
    after (mk 7 3 9 [(3, 33), (9, 1234)]) = some (7, 4, 10, true, false) ∧
    after { mk 7 3 9 [(3, 33), (9, 1234)] with haltAdvancesPointers := false } = some (7, 3, 9, true, false) := by decide
theorem test_halt_V_HALT_2 :
    after { mk 7 4 10 [(3, 33), (9, 1234)] with halted := true } = some (7, 4, 10, true, false) := by decide
theorem test_nop_V_NOP_1 :
    after { mk 7 3 9 [(3, 95), (9, 1234)] with hitEof := true } = some (7, 4, 10, false, true) ∧
    wordAfter (mk 7 3 9 [(3, 95), (9, 1234)]) 9 = some 1234 := by decide
theorem test_nopDefault_V_NOP_2 :
    [(32 : Word), 34, 41, 63, 126, 59048].all (fun v => decide
      (after { mk 7 3 9 [(3, v), (9, 1234)] with hitEof := true } = some (7, 4, 10, false, true))) = true := by decide
theorem test_nopDefault_V_STEP_1 : after (mk 5 59048 59048 []) = some (5, 0, 0, false, false) := by decide

/-! Memory's canonical form, the run, the ports and the Loader. -/

theorem test_memory_write_zero_unlists : Memory.write [(3, 62), (9, 5)] 9 0 = [(3, 62)] := by decide
theorem test_memory_write_sorts : Memory.write [(3, 62), (9, 5)] 7 1 = [(3, 62), (7, 1), (9, 5)] := by decide
-- Program P2: two steps, A = 239.
theorem test_run_P2 :
    runFor 2 (boot [(0, 124), (1, 33)]) = .halted { mk 239 2 2 [(0, 239), (1, 33)] with halted := true } ∧
    runFor 1 (boot [(0, 124), (1, 33)]) = .outOfFuel := by decide
theorem test_observe_table :
    obsData 7 5 3 (mk 1 2 3 [(3, 62)]) = 62 ∧ obsData 7 1 0 (mk 1 2 3 []) = 2 ∧ obsData 7 6 0 (mk 1 2 3 []) = 7 ∧
    obsData 7 0 0 (setPhase .waitIn (mk 1 2 3 [])) = 7 := by decide
-- V-LOAD-3, V-LOAD-6.
theorem test_load_V_LOAD_3 : load ['!', '(', 'a', ' ', '(', ' ', 'b', ')', '_'] = .ok [33, 95] := by rfl
theorem test_load_V_LOAD_6 : load ['!', '\n', '_'] = .ok [33, 95] ∧ load ['!', ' ', '_'] = .ok [33, 95] := ⟨rfl, rfl⟩
-- V-LOAD-1, V-LOAD-2, V-LOAD-7, V-LOAD-8; and V-LOAD-4 for a memory of two words.
theorem test_load_V_LOAD_1 : load [Char.ofNat 125, Char.ofNat 123] = .ok [125, 123] := by rfl
theorem test_load_V_LOAD_errors :
    load ['!', '(', 'n'] = .error .unterminatedComment ∧ load ['!', ')'] = .error (.badCharacter ')') ∧
    load ['A'] = .error (.badCharacter 'A') ∧ loadWithin 2 ['_', '_', '_'] = .error (.capacity 3 2) := ⟨rfl, rfl, rfl, rfl⟩

/-- The word placed where step fetches is the word step runs, from reset and from a wait. -/
theorem test_withFetchWord :
    after (State.reset.withFetchWord 16 0x003E) = some (39386, 1, 1, false, false) ∧
    after ((setPhase .waitIn (mk 0 5 5 [])).withFetchWord 16 0x0021) = some (0, 6, 6, true, false) := by decide

/-! Witnesses: for the hypotheses of each statement, a state that meets them. -/

/-- A state waiting for input, as a run leaves it. -/
def waitingIn : State := setPhase .waitIn (mkDeaf 7 3 9 [(3, 125)])
/-- A state waiting for its byte to be taken. -/
def waitingOut : State := setPhase (.waitOut 65) (mkDeaf 65 3 9 [(3, 123)])
/-- A halted state. -/
def haltedState : State := { mk 7 4 10 [(3, 33)] with halted := true }
/-- A state under reset. -/
def underReset : State := resetCore (mk 7 3 9 [(0, 62)])
/-- A request for one step. -/
def ask : PortsIn := { PortsIn.quiet with stepReq := true }

theorem test_coherent_waitingIn : Coherent waitingIn := ⟨by decide, rfl, by decide⟩
theorem test_coherent_waitingOut : Coherent waitingOut := ⟨by decide, rfl, by decide, by decide, by decide⟩
theorem test_coherent_haltedState : Coherent haltedState := ⟨by decide, trivial⟩
theorem test_coherent_underReset : Coherent underReset := ⟨by decide, rfl, rfl, rfl, rfl, rfl⟩
theorem test_coherent_between (a c d : Word) (cells : Memory) (h : cells.wf) : Coherent (mk a c d cells) := ⟨h, trivial⟩

theorem test_witness_DecodeEncodeAgree : WellFormed (.nopDefault 59048) = true ∧ WellFormed .inp = true := by decide
theorem test_witness_OpcodeRowsMatchWholeWords :
    (∀ v, Instr.inp ≠ .nopDefault v) ∧ storedForm 125 &&& rowMask .inp = rowMatch .inp := ⟨nofun, by decide⟩
theorem test_witness_StoredFormsAreTheWords :
    59049 ≤ (59049 : BitVec 16).toNat ∧ 59049 ≤ (65535 : BitVec 16).toNat ∧ ofStored 59048 = some 59048 := by decide
theorem test_witness_RotateMovesEveryTrit :
    (8 : Nat) ≤ 8 ∧ trit 39386 9 = trit 62 0 ∧ ∀ i : Fin 9, trit 39386 i.val = trit 62 (i.val + 1) := by decide
theorem test_witness_SubtractLanesAreIndependent : trit 1 0 = trit 4 0 ∧ trit 2 0 = trit 5 0 := by decide
theorem test_witness_SubtractLaws :
    (∀ j : Fin 10, j ≠ 0 → trit 0 j.val = trit 1 j.val) ∧ (∀ j : Fin 10, j ≠ 9 → trit 0 j.val = trit 39366 j.val) ∧
    trit 21 0 = 0 ∧ trit 21 1 = 1 ∧ trit 21 2 = 2 := by decide
theorem test_witness_SubtractLaws_sentinel : ∃ s t : State, exec .sub s = .next t ∧ t.a = sentinel :=
  ⟨mk 0 3 9 [(9, 29524)], _, rfl, by decide⟩

theorem test_witness_RotInstruction_fixed : ∃ s t : State,
    (data s = 0 ∨ data s = 29524 ∨ data s = 59048) ∧ exec .rot s = .next t := ⟨mk 7 3 9 [(9, 29524)], _, by decide, rfl⟩
theorem test_witness_RotInstruction_sentinel : ∃ s t : State, data s = sentinel ∧ exec .rot s = .next t :=
  ⟨mk 7 3 9 [(9, 59048)], _, by decide, rfl⟩
theorem test_witness_RotInstruction_self : ∃ s t : State, s.c = s.d ∧ instrWord s = 62 ∧ exec .rot s = .next t :=
  ⟨mk 7 59048 59048 [(59048, 62)], _, rfl, by decide, rfl⟩
theorem test_witness_RotInstruction_ten : ∃ (before after : Nat → State) (x : Word), ∀ n < 10, (before n).d = x ∧
    exec .rot (before n) = .next (after n) ∧ (before (n + 1)).mem.read x = (after n).mem.read x :=
  have ⟨t, e, h⟩ : ∃ t, exec .rot (mk 7 3 9 [(9, 29524)]) = .next t ∧ (mk 7 3 9 [(9, 29524)]).mem.read 9 = t.mem.read 9 :=
    ⟨_, rfl, by decide⟩
  ⟨fun _ => mk 7 3 9 [(9, 29524)], fun _ => t, 9, fun _ _ => ⟨rfl, e, h⟩⟩
theorem test_witness_RotInstruction_example : ∃ s : State,
    s.c = 0 ∧ s.d = 0 ∧ s.mem.read 0 = 62 ∧ s.phase = .ready ∧ s.halted = false := ⟨mk 0 0 0 [(0, 62)], by decide⟩

theorem test_witness_SubInstruction_equal : ∃ s t : State, s.a = data s ∧ exec .sub s = .next t :=
  ⟨mk 59048 3 9 [(9, 59048)], _, by decide, rfl⟩
theorem test_witness_SubInstruction_zero : ∃ s t : State, exec .sub s = .next t ∧ data s = 0 ∧ t.a = s.a :=
  ⟨mk 59048 3 9 [], _, rfl, by decide, by decide⟩
theorem test_witness_SubInstruction_negate : ∃ s t : State, s.a = 0 ∧ exec .sub s = .next t ∧
    trit (data s) 0 = 0 ∧ trit (data s) 1 = 1 ∧ trit (data s) 2 = 2 := ⟨mk 0 3 9 [(9, 21)], _, rfl, rfl, by decide⟩
theorem test_witness_SubInstruction_sentinel : ∃ s t : State, s.a = 0 ∧ data s = 29524 ∧ exec .sub s = .next t :=
  ⟨mk 0 3 9 [(9, 29524)], _, rfl, by decide, rfl⟩
theorem test_witness_SubInstruction_self : ∃ s t : State, s.c = s.d ∧ instrWord s = 124 ∧ s.a = 0 ∧ exec .sub s = .next t :=
  ⟨mk 0 59048 59048 [(59048, 124)], _, rfl, by decide, rfl, rfl⟩
theorem test_witness_SubInstruction_no_borrow : ∃ s t : State, s.a = 5 ∧ data s = 7 ∧ exec .sub s = .next t :=
  ⟨mk 5 3 9 [(9, 7)], _, rfl, by decide, rfl⟩
theorem test_witness_SubInstruction_example : ∃ s : State,
    s.a = 0 ∧ s.c = 0 ∧ s.d = 0 ∧ s.mem.read 0 = 124 ∧ s.phase = .ready ∧ s.halted = false := ⟨mk 0 0 0 [(0, 124)], by decide⟩

theorem test_witness_LddInstruction : ∃ s t u v : State, (data s = sentinel ∧ exec .ldd s = .next t) ∧
    (data u = u.d ∧ exec .ldd u = .next v) :=
  ⟨mk 0 3 9 [(9, 59048)], _, mk 0 3 9 [(9, 9)], _, ⟨by decide, rfl⟩, ⟨by decide, rfl⟩⟩
theorem test_witness_LddInstruction_self : ∃ s t : State, s.c = s.d ∧ instrWord s = 42 ∧ exec .ldd s = .next t :=
  ⟨mk 0 59048 59048 [(59048, 42)], _, rfl, by decide, rfl⟩
theorem test_witness_LddInstruction_pair : ∃ (i : Instr) (s t : State), s.c = s.d ∧ i ≠ .ldd ∧ i ≠ .jmp ∧ exec i s = .next t :=
  ⟨.rot, mk 0 0 0 [(0, 62)], _, rfl, by decide, by decide, rfl⟩
theorem test_witness_LddInstruction_example : ∃ s : State,
    s.c = 0 ∧ s.d = 0 ∧ s.mem.read 0 = 42 ∧ s.phase = .ready ∧ s.halted = false := ⟨mk 0 0 0 [(0, 42)], by decide⟩

theorem test_witness_JmpInstruction : ∃ s t u v : State, (data s = sentinel ∧ exec .jmp s = .next t) ∧
    (data u = u.c ∧ exec .jmp u = .next v) :=
  ⟨mk 0 3 9 [(9, 59048)], _, mk 0 3 9 [(9, 3)], _, ⟨by decide, rfl⟩, ⟨by decide, rfl⟩⟩
theorem test_witness_JmpInstruction_before : ∃ s t : State, incr (data s) = s.c ∧ exec .jmp s = .next t :=
  ⟨mk 0 0 9 [(9, 59048)], _, by decide, rfl⟩
theorem test_witness_JmpInstruction_self : ∃ s t : State, s.c = s.d ∧ instrWord s = 94 ∧ exec .jmp s = .next t :=
  ⟨mk 0 59048 59048 [(59048, 94)], _, rfl, by decide, rfl⟩
theorem test_witness_JmpInstruction_example : ∃ s : State,
    s.c = 0 ∧ s.d = 0 ∧ s.mem.read 0 = 94 ∧ s.phase = .ready ∧ s.halted = false := ⟨mk 0 0 0 [(0, 94)], by decide⟩

theorem test_witness_OutInstruction_halts : (mk 59048 3 9 []).a = 59048 := rfl
theorem test_witness_OutInstruction_writes :
    (mk 59047 3 9 []).a ≠ 59048 ∧ (mk 59047 3 9 []).adapter.takes ≠ .atMost 0 ∧ (mk 0 3 9 []).a ≠ 59048 := by decide
theorem test_witness_OutInstruction_waits :
    (mkDeaf 59047 3 9 []).a ≠ 59048 ∧ (mkDeaf 59047 3 9 []).adapter.takes = .atMost 0 := by decide
theorem test_witness_InInstruction :
    (mkIn 7 3 9 [] [.byte 255]).adapter.answers = .byte 255 :: [] ∧ (mkIn 7 3 9 [] [.byte 0]).adapter.answers = .byte 0 :: [] ∧
    (mkIn 7 3 9 [] [.eof]).adapter.answers = .eof :: [] ∧
    ((mkIn 7 3 9 [] []).adapter.answers = [] ∧ (mkIn 7 3 9 [] []).adapter.afterwards = .eof) ∧
    ((mkDeaf 7 3 9 []).adapter.answers = [] ∧ (mkDeaf 7 3 9 []).adapter.afterwards = .silent) ∧
    (mkIn 7 3 9 [] []).adapter.readByte ≠ none := by decide
theorem test_witness_HaltInstruction : (mk 7 3 9 []).phase = .ready := rfl
theorem test_witness_NopInstruction : ∃ s t u v : State, (s.c = sentinel ∧ exec .nop s = .next t) ∧
    (u.c = 7 ∧ u.d = 300 ∧ exec .nop u = .next v) := ⟨mk 0 59048 9 [], _, mk 0 7 300 [], _, ⟨rfl, rfl⟩, ⟨rfl, rfl, rfl⟩⟩
theorem test_witness_DefaultNoOpInstruction :
    (32 : Word) ∉ [33, 42, 62, 94, 95, 123, 124, (125 : Word)] ∧ (126 : Word) ∉ [33, 42, 62, 94, 95, 123, 124, (125 : Word)] := by
  decide
theorem test_witness_DefaultNoOpInstruction_wrap : ∃ s t : State,
    s.phase = .ready ∧ s.halted = false ∧ s.c = sentinel ∧ s.mem.read s.c = 0 ∧ step s = .next t :=
  ⟨mk 5 59048 59048 [], _, rfl, rfl, rfl, rfl, rfl⟩
theorem test_witness_AccumulatorReadBySubAndOutOnly : ∃ (i : Instr) (s t : State), i ≠ .sub ∧ i ≠ .out ∧ exec i s = .next t :=
  ⟨.inp, mkIn 7 3 9 [] [.byte 255], _, by decide, by decide, rfl⟩

theorem test_witness_StepRunsDecodedInstruction :
    (mk 7 3 9 [(3, 62)]).phase = .ready ∧ (mk 7 3 9 [(3, 62)]).halted = false ∧ decode ((mk 7 3 9 [(3, 62)]).mem.read 3) = .rot := by
  decide
theorem test_witness_WaitingStepRunsTheSameInstruction :
    (waitingIn.halted = false ∧ waitingIn.phase ≠ .reset) ∧ (waitingOut.halted = false ∧ waitingOut.phase ≠ .reset) ∧
    underReset.phase = .reset := by decide
theorem test_witness_HaltedStepChangesNothing : Coherent haltedState ∧ haltedState.halted = true :=
  ⟨test_coherent_haltedState, rfl⟩
theorem test_witness_HaltedReachedInTwoWays : ∃ s t u v : State,
    (Coherent s ∧ step s = .next t ∧ fetchInstr s = .halt) ∧ (Coherent u ∧ step u = .next v ∧ fetchInstr u = .out ∧ u.a = sentinel) :=
  ⟨mk 7 3 9 [(3, 33)], _, mk 59048 3 9 [(3, 123)], _, ⟨⟨by decide, trivial⟩, rfl, by decide⟩, ⟨⟨by decide, trivial⟩, rfl, by decide, rfl⟩⟩
theorem test_witness_PointersAdvanceAfterDispatch : ∃ s t : State, Coherent s ∧ s.halted = false ∧ s.phase ≠ .reset ∧
    step s = .next t ∧ t.phase = .ready ∧ (t.halted = true → s.haltAdvancesPointers = true) ∧ fetchInstr s = .jmp :=
  ⟨mk 7 59048 9 [(9, 59048), (59048, 94)], _, ⟨by decide, trivial⟩, rfl, by decide, rfl, by decide, by decide, by decide⟩
theorem test_witness_PointersAdvanceAfterDispatch_ldd : ∃ s t : State, Coherent s ∧ s.halted = false ∧ s.phase ≠ .reset ∧
    step s = .next t ∧ t.phase = .ready ∧ (t.halted = true → s.haltAdvancesPointers = true) ∧ fetchInstr s = .ldd :=
  ⟨mk 7 3 59048 [(3, 42)], _, ⟨by decide, trivial⟩, rfl, by decide, rfl, by decide, by decide, by decide⟩
theorem test_witness_HaltingStepAndThePointers :
    ((mk 7 3 9 [(3, 33)]).phase = .ready ∧ (mk 7 3 9 [(3, 33)]).halted = false ∧ fetchInstr (mk 7 3 9 [(3, 33)]) = .halt ∧
      (mk 7 3 9 [(3, 33)]).haltAdvancesPointers = true) ∧
    (fetchInstr { mk 59048 3 9 [(3, 123)] with haltAdvancesPointers := false } = .out ∧ (mk 59048 3 9 [(3, 123)]).a = sentinel) := by
  decide
theorem test_witness_HaltingStepAndThePointers_flag : ∃ s t : State, Coherent s ∧ step s = .next t ∧ t.halted = false :=
  ⟨mk 7 3 9 [(3, 62)], _, ⟨by decide, trivial⟩, rfl, by decide⟩
theorem test_witness_MemoryChangesInTwoWays_step : ∃ (s t : State) (x : Word), step s = .next t ∧ t.mem.read x ≠ s.mem.read x :=
  ⟨mk 7 3 59048 [(3, 62), (59048, 5)], _, 59048, rfl, by decide⟩
theorem test_witness_MemoryChangesInTwoWays_tick : ∃ (p : PortsIn) (s t : State) (x : Word),
    tick p s = .next t ∧ t.mem.read x ≠ s.mem.read x := ⟨loadTick (59048, 62), mk 7 3 9 [], _, 59048, rfl, by decide⟩
theorem test_witness_MemoryChangesInTwoWays_started : ∃ (p : PortsIn) (s t : State) (x : Word),
    p.rst = false ∧ tick p s = .next t ∧ t.mem.read x ≠ s.mem.read x :=
  ⟨ask, mk 7 3 9 [(3, 124), (9, 7)], _, 9, rfl, rfl, by decide⟩
theorem test_witness_MemoryChangesInTwoWays_reset : ∃ (p : PortsIn) (s t : State),
    p.rst = true ∧ p.loadEn = false ∧ tick p s = .next t := ⟨{ PortsIn.quiet with rst := true }, waitingOut, _, rfl, rfl, rfl⟩
theorem test_witness_WrittenWordIsFetchedNext : ∃ s t : State, s.phase = .ready ∧ s.halted = false ∧
    (fetchInstr s = .rot ∨ fetchInstr s = .sub) ∧ step s = .next t ∧ t.c = s.d :=
  ⟨mk 7 3 4 [(3, 62), (4, 99)], _, rfl, rfl, by decide, rfl, by decide⟩

theorem test_witness_WrittenWordIsFetchedNext_later : ∃ s t u : State, s.phase = .ready ∧ s.halted = false ∧ fetchInstr s = .rot ∧
    step s = .next t ∧ steps 1 t = .next u ∧ u.c = s.d ∧ u.phase = .ready ∧ u.halted = false ∧ decode t.a = .halt ∧
    ∀ (j : Nat) (v : State), j < 1 → steps j t = .next v → v.phase = .ready → v.halted = false →
      fetchInstr v = .rot ∨ fetchInstr v = .sub → v.d ≠ s.d := by
  refine ⟨mk 7 3 5 [(3, 62), (5, 99)], _, _, rfl, rfl, by decide, rfl, rfl, by decide, by decide, by decide, by decide, ?_⟩
  rintro (_ | j) v hj e _ _ hi
  · cases e
    exact absurd hi (by decide)
  · omega
theorem test_witness_WrittenWordIsFetchedNext_data : ∃ s t u : State, s.phase = .ready ∧ s.halted = false ∧ fetchInstr s = .sub ∧
    step s = .next t ∧ u.mem.read s.d = t.a ∧ u.d = s.d ∧ u.c = s.d ∧ u.mem ≠ t.mem :=
  ⟨mk 5 3 9 [(3, 124), (9, 7)], _, mk 0 9 9 [(9, 7)], rfl, rfl, by decide, rfl, by decide, rfl, rfl, by decide⟩

theorem test_witness_HitEof_sticky : ∃ s t : State, step s = .next t ∧ s.hitEof = true :=
  ⟨{ mkIn 7 3 9 [(3, 125)] [.byte 0] with hitEof := true }, _, rfl, rfl⟩
theorem test_witness_HitEof_set : ∃ s t : State, Coherent s ∧ step s = .next t ∧ s.hitEof = false ∧ t.hitEof = true :=
  ⟨mkIn 7 3 9 [(3, 125)] [], _, ⟨by decide, trivial⟩, rfl, rfl, by decide⟩
theorem test_witness_HitEof_answers : ∃ (s u : State) (ad ad' : Adapter),
    (s.phase = .ready ∧ s.halted = false ∧ fetchInstr s = .inp ∧ s.adapter.readByte = some (.eof, ad)) ∧
    (u.phase = .ready ∧ u.halted = false ∧ fetchInstr u = .inp ∧ u.hitEof = true ∧ u.adapter.readByte = some (.byte 66, ad')) :=
  ⟨mkIn 7 3 9 [(3, 125)] [], { mkIn 7 3 9 [(3, 125)] [.byte 66] with hitEof := true }, _, _,
    ⟨rfl, rfl, by decide, rfl⟩, ⟨rfl, rfl, by decide, rfl, rfl⟩⟩
theorem test_witness_HitEof_finite : Adapter.atReset.answers = [] ∧ Adapter.atReset.afterwards = .eof := ⟨rfl, rfl⟩
theorem test_witness_EachTransferIsOneStep_in : ∃ s t : State, Coherent s ∧ step s = .next t ∧ s.halted = false ∧
    s.phase ≠ .reset ∧ t.phase = .ready ∧ fetchInstr s = .inp :=
  ⟨mkIn 7 3 9 [(3, 125)] [.byte 1, .eof], _, ⟨by decide, trivial⟩, rfl, rfl, by decide, by decide, by decide⟩
theorem test_witness_EachTransferIsOneStep_out : ∃ s t : State, Coherent s ∧ step s = .next t ∧ s.halted = false ∧
    s.phase ≠ .reset ∧ t.phase = .ready ∧ fetchInstr s = .out ∧ s.a ≠ sentinel :=
  ⟨mk 59047 3 9 [(3, 123)], _, ⟨by decide, trivial⟩, rfl, rfl, by decide, by decide, by decide, by decide⟩
theorem test_witness_EachTransferIsOneStep_none : ∃ s t : State, Coherent s ∧ step s = .next t ∧ fetchInstr s = .out ∧ s.a = sentinel :=
  ⟨mk 59048 3 9 [(3, 123)], _, ⟨by decide, trivial⟩, rfl, by decide, rfl⟩
theorem test_witness_SilentHostHangsTheCore :
    (fetchInstr (mkDeaf 7 3 9 [(3, 125)]) = .inp ∧ (mkDeaf 7 3 9 [(3, 125)]).adapter.answers = [] ∧
      (mkDeaf 7 3 9 [(3, 125)]).adapter.afterwards = .silent) ∧
    (fetchInstr (mkDeaf 65 3 9 [(3, 123)]) = .out ∧ (mkDeaf 65 3 9 [(3, 123)]).a ≠ sentinel ∧
      (mkDeaf 65 3 9 [(3, 123)]).adapter.takes = .atMost 0) := by decide
theorem test_witness_RunEndsOnlyWhenHalted_halted : ∃ s t : State, runFor 1 s = .halted t := ⟨mk 7 3 9 [(3, 33)], _, rfl⟩
theorem test_witness_RunEndsOnlyWhenHalted_fuel : ∃ s t : State, runFor 1 s = .outOfFuel ∧ steps 1 s = .next t :=
  ⟨mk 7 3 9 [(3, 95)], _, rfl, rfl⟩
theorem test_witness_StepRefinesPseudocode : ∃ s t : State, s.phase = .ready ∧ step s = .next t ∧ t.phase = .ready ∧ HostAnswers s :=
  ⟨mkIn 7 3 9 [(3, 125)] [.byte 255], _, rfl, rfl, by decide, rfl, rfl⟩
theorem test_witness_RunRefinesPseudocode : State.reset.phase = .ready ∧ HostAnswers State.reset := ⟨rfl, rfl, rfl⟩

theorem test_witness_LoadPort_in_range :
    (loadTick (59048, 59048)).rst = true ∧ (loadTick (59048, 59048)).loadEn = true ∧
    ofStored (loadTick (59048, 59048)).loadAddr = some 59048 ∧ ofStored (loadTick (59048, 59048)).loadData = some 59048 := by decide
theorem test_witness_LoadPort_refused :
    tick { loadTick (0, 0) with loadAddr := 59049 } State.reset = .refused .loadNotAWord ∧
    tick { loadTick (0, 0) with loadData := 59049 } State.reset = .refused .loadNotAWord := ⟨rfl, rfl⟩
theorem test_witness_FirstStepAfterReset :
    Coherent underReset ∧ underReset.phase = .reset ∧ ask.rst = false ∧ ask.stepReq = true ∧ PortsIn.quiet.run = false :=
  ⟨test_coherent_underReset, by decide⟩
theorem test_witness_FsmTransitions_idle :
    fsmState (mk 7 3 9 [(3, 62)]) = .idle ∧ ask.rst = false ∧ ask.start = true ∧ fetchInstr (mk 7 3 9 [(3, 62)]) ≠ .inp ∧
    fetchInstr (mk 7 3 9 [(3, 62)]) ≠ .out ∧ fetchInstr (mk 7 3 9 [(3, 125)]) = .inp ∧ fetchInstr (mk 59048 3 9 [(3, 123)]) = .out ∧
    (mk 59048 3 9 [(3, 123)]).a = sentinel ∧ (mk 59047 3 9 [(3, 123)]).a ≠ sentinel := by decide
theorem test_witness_FsmTransitions_waits :
    (waitingOut.phase = .waitOut 65 ∧ waitingIn.phase = .waitIn ∧ fsmState haltedState = .halted ∧ fsmState underReset = .reset) ∧
    { PortsIn.quiet with inAck := true, inEof := true }.answer = .eof ∧
    { PortsIn.quiet with inAck := true, inByte := 255 }.answer = .byte 255 := by decide
theorem test_witness_StartingAStep : busy waitingIn = true ∧ busy waitingOut = true ∧ busy underReset = true := by decide
theorem test_witness_PortProtocols :
    Coherent waitingIn ∧ Coherent waitingOut ∧ waitingIn.phase ≠ .waitOut 0 ∧ (mk 0 0 0 []).phase ≠ .waitIn :=
  ⟨test_coherent_waitingIn, test_coherent_waitingOut, by decide⟩
theorem test_witness_ObservePort :
    busy (mk 1 2 3 []) = false ∧ busy haltedState = false ∧ busy waitingIn = true ∧ 59049 ≤ (59049 : BitVec 16).toNat := by decide
theorem test_witness_TicksImplementStep_in : ∃ (s t : State) (p q : PortsIn) (ad : Adapter), s.phase = .ready ∧ s.halted = false ∧
    p.rst = false ∧ p.start = true ∧ step s = .next t ∧ t.phase = .ready ∧ q.rst = false ∧
    (∀ w ∈ [PortsIn.quiet, ask], w.rst = false ∧ w.inAck = false ∧ w.outAck = false) ∧ fetchInstr s = .inp ∧ q.inAck = true ∧
    s.adapter.readByte = some (q.answer, ad) :=
  ⟨mkIn 7 3 9 [(3, 125)] [.byte 255], _, ask, { PortsIn.quiet with inAck := true, inByte := 255 }, _,
    rfl, rfl, rfl, rfl, rfl, by decide, rfl, by decide, by decide, rfl, rfl⟩
theorem test_witness_TicksImplementStep_out : ∃ (s t : State) (p q : PortsIn), s.phase = .ready ∧ s.halted = false ∧
    p.rst = false ∧ p.start = true ∧ step s = .next t ∧ t.phase = .ready ∧ q.rst = false ∧
    (∀ w ∈ [PortsIn.quiet, ask], w.rst = false ∧ w.inAck = false ∧ w.outAck = false) ∧ fetchInstr s = .out ∧ s.a ≠ sentinel ∧
    q.outAck = true :=
  ⟨mk 59047 3 9 [(3, 123)], _, ask, { PortsIn.quiet with outAck := true },
    rfl, rfl, rfl, rfl, rfl, by decide, rfl, by decide, by decide, by decide, rfl⟩
theorem test_witness_TicksImplementStep_other : ∃ (s t u v : State), (step s = .next t ∧ fetchInstr s ≠ .inp ∧ fetchInstr s ≠ .out) ∧
    (step u = .next v ∧ v.phase ≠ .ready) :=
  ⟨mk 7 3 9 [(3, 62)], _, mkDeaf 7 3 9 [(3, 125)], _, ⟨rfl, by decide, by decide⟩, ⟨rfl, by decide⟩⟩
theorem test_witness_ResetIsCoherent : Memory.wf [(0, 125), (59048, 123)] := by decide
theorem test_witness_StepKeepsCoherent : ∃ s t : State, Coherent s ∧ step s = .next t := ⟨waitingOut, _, test_coherent_waitingOut, rfl⟩
theorem test_witness_TickKeepsCoherent : ∃ (p : PortsIn) (s t : State), Coherent s ∧ tick p s = .next t :=
  ⟨ask, mk 7 3 9 [(3, 125)], _, ⟨by decide, trivial⟩, rfl⟩
theorem test_witness_CanonicalMemoriesAreEqualData :
    Memory.wf [(3, 62)] ∧ Memory.wf (Memory.write [(3, 62), (9, 5)] 9 0) := by decide
theorem test_witness_LoaderSkipsComments : ')' ∉ ['a', '(', 'b'] := by decide
theorem test_witness_LoaderSpaceAndErrors :
    (' '.toNat = 0x20 ∧ '\r'.toNat = 0x0D) ∧ scan false ['!'] = .ok [33] ∧ 'A' ≠ '(' ∧ isLoaderSpace 'A' = false ∧ opcodeOfChar 'A' = none ∧ ')' ∉ ['n'] :=
  ⟨⟨rfl, rfl⟩, rfl, by decide⟩
theorem test_witness_LoaderSpaceAndErrors_capacity : ∃ (text : List Char) (ws : List Word), scan false text = .ok ws ∧ 59049 < ws.length := by
  have h : ∀ n : Nat, scan false (List.replicate n '_') = .ok (List.replicate n 95) := by
    intro n
    induction n with
    | zero => rfl
    | succ n ih =>
      have hs : isLoaderSpace '_' = false := by decide
      have ho : opcodeOfChar '_' = some 95 := by decide
      simp [List.replicate_succ, scan, hs, ho, ih]
  exact ⟨_, _, h 59050, by rw [List.length_replicate]; omega⟩
theorem test_witness_LoaderImage : load ['!', '_'] = .ok [33, 95] ∧ [(33 : Word), 95].length ≤ 59049 := ⟨rfl, by decide⟩

end Sys2Proof.Tests
end

section
/-! PROOFS of the family 30_encoding.md: which words the default row takes (R57), and how the Loader passes over comments (R64). -/

namespace Sys2Proof

/-- No opcode decodes as the default row: each of the eight codes has a row of its own (R55). -/
theorem decode_ne_nopDefault_of_opcode {w : Word} (h : w ∈ opcodes) : decode w ≠ .nopDefault w := by
  simp only [opcodes, List.mem_cons, List.not_mem_nil, or_false] at h
  rcases h with rfl | rfl | rfl | rfl | rfl | rfl | rfl | rfl <;> decide

/-- The default row takes exactly the words that are none of the eight codes (R57). -/
theorem decode_eq_nopDefault_iff (w : Word) : decode w = .nopDefault w ↔ w ∉ opcodes :=
  ⟨fun h hw => decode_ne_nopDefault_of_opcode hw h, decode_of_not_opcode⟩

/-- The words between the eight codes, as the ranges that R57 lists. -/
theorem not_mem_opcodes_iff_range (w : Word) : w ∉ opcodes ↔
    w.val ≤ 32 ∨ (34 ≤ w.val ∧ w.val ≤ 41) ∨ (43 ≤ w.val ∧ w.val ≤ 61) ∨ (63 ≤ w.val ∧ w.val ≤ 93) ∨
    (96 ≤ w.val ∧ w.val ≤ 122) ∨ (126 ≤ w.val ∧ w.val ≤ 59048) := by
  have hw := w.isLt
  simp only [opcodes, List.mem_cons, List.not_mem_nil, or_false, Fin.ext_iff, Fin.coe_ofNat_eq_mod, Nat.reduceMod]
  omega

/-- The eight codes are eight different words (R55). -/
theorem opcodes_nodup : opcodes.Nodup := by decide

/-- All N words but the eight codes are left for the default row (R57). -/
theorem card_filter_nopDefault : (Finset.univ.filter fun w : Word => decode w = .nopDefault w).card = 59041 := by
  have hset : (Finset.univ.filter fun w : Word => decode w = .nopDefault w) = opcodes.toFinsetᶜ := by
    ext w
    simp [decode_eq_nopDefault_iff]
  rw [hset, Finset.card_compl, Fintype.card_fin, List.toFinset_card_of_nodup opcodes_nodup]
  rfl

/-- Settles O3: a word takes the default row exactly when it is none of the eight codes, so its ranges and number are those of the
complement of the code list. -/
theorem defaultRowIsEveryOtherWord : Obligations.DefaultRowIsEveryOtherWord :=
  ⟨fun w => (decode_eq_nopDefault_iff w).symm,
   fun w => (decode_eq_nopDefault_iff w).trans (not_mem_opcodes_iff_range w),
   card_filter_nopDefault,
   rfl⟩

namespace Machine

/-- An opening parenthesis outside a comment begins one (R64). -/
@[simp] theorem scan_open (rest : List Char) : scan false ('(' :: rest) = scan true rest := rfl

/-- A closing parenthesis ends the comment, however many were opened inside it (R64). -/
@[simp] theorem scan_comment_close (rest : List Char) : scan true (')' :: rest) = scan false rest := rfl

/-- The text may not end inside a comment (R64, R66). -/
@[simp] theorem scan_comment_nil : scan true [] = .error .unterminatedComment := rfl

/-- Inside a comment every character but the closing parenthesis is passed over (R64). -/
theorem scan_comment_cons {c : Char} (hc : c ≠ ')') (rest : List Char) : scan true (c :: rest) = scan true rest :=
  if_neg hc

/-- A comment's characters are passed over and leave the scan inside the comment (R64). -/
theorem scan_comment_append {body : List Char} (h : ')' ∉ body) (rest : List Char) :
    scan true (body ++ rest) = scan true rest := by
  induction body with
  | nil => rfl
  | cons c body ih =>
    obtain ⟨hc, hbody⟩ := not_or.1 (mt List.mem_cons.2 h)
    rw [List.cons_append, scan_comment_cons (Ne.symm hc), ih hbody]

/-- Settles O51: the characters of a comment are passed over one by one, and what follows them, a closing parenthesis or the end of the
text, decides. -/
theorem loaderSkipsComments : Obligations.LoaderSkipsComments := by
  refine ⟨fun body rest h => ?closed, fun body h => ?unterminated⟩
  case closed => rw [List.cons_append, scan_open, scan_comment_append h, scan_comment_close]
  case unterminated => rw [scan_open, ← List.append_nil body, scan_comment_append h, scan_comment_nil]

end Machine
end Sys2Proof
end

section
/-! PROOFS of the family 40_ternary_alu.md: the digit-wise subtraction as the sum of its lanes (R78). -/

namespace Sys2Proof.Machine

/-- The value of the word of ten trits is their weighted sum (R12). -/
theorem fromTrits_val (t : Fin 10 → Trit) : (fromTrits t).val = ∑ i : Fin 10, (t i).val * 3 ^ i.val := by
  simp [fromTrits, Fin.sum_univ_castSucc]

/-- One lane of the subtraction is the non-negative remainder of the difference (R11, R78). -/
theorem subTrit_val (x y : Trit) : ((subTrit x y).val : Int) = ((x.val : Int) - (y.val : Int)) % 3 :=
  Fin.coe_int_sub_eq_mod x y

/-- The digit-wise subtraction as the sum of its ten lanes (R78). -/
theorem subtractDigitwise_val (x y : Word) : ((subtractDigitwise x y).val : Int) =
    ∑ i ∈ Finset.range 10, (((trit x i).val : Int) - ((trit y i).val : Int)) % 3 * 3 ^ i := by
  rw [subtractDigitwise, fromTrits_val, ← Fin.sum_univ_eq_sum_range]
  push_cast
  simp only [subTrit_val]

/-- Settles O8: every lane of the weighted sum is the remainder of its two trits' difference, and SUB's result in `A` passes the pointer
advance unchanged. -/
theorem subtractIsTheSumOfLanes : Obligations.SubtractIsTheSumOfLanes :=
  ⟨subtractDigitwise_val,
   fun s => ⟨_, exec_sub s, by rw [advance_a, storeResult_a]⟩,
   by decide⟩

end Sys2Proof.Machine
end

section
/-! PROOFS of the family 41_step_cycle.md: a step is dispatch and then the pointer advance, as in the pseudocode of R84; what that says
of the halted state (R89, R92), of the pointers (R86) and of the pseudocode over plain numbers. -/

namespace Sys2Proof

/-- Each of the eight codes decodes to the well-formed instruction it encodes (R55). -/
theorem decode_of_opcode {w : Word} (h : w ∈ opcodes) : WellFormed (decode w) = true ∧ encode (decode w) = w := by
  simp only [opcodes, List.mem_cons, List.not_mem_nil, or_false] at h
  rcases h with rfl | rfl | rfl | rfl | rfl | rfl | rfl | rfl <;> exact ⟨rfl, rfl⟩

/-- Decoding gives a well-formed instruction (R56, R57). -/
theorem wellFormed_decode (w : Word) : WellFormed (decode w) = true := by
  by_cases hw : w ∈ opcodes
  · exact (decode_of_opcode hw).1
  · simp [decode_of_not_opcode hw, WellFormed, hw]

/-- Decoding loses nothing of the word (R56, R57). -/
theorem encode_decode (w : Word) : encode (decode w) = w := by
  by_cases hw : w ∈ opcodes
  · exact (decode_of_opcode hw).2
  · rw [decode_of_not_opcode hw, encode]

namespace Machine

/-! A step is dispatch and then the pointer advance (R84). -/

/-- The two ways into halted (R92): `i` is HALT, or OUT with `A = N−1`. -/
def Halts (i : Instr) (s : State) : Prop := i = .halt ∨ (i = .out ∧ s.a = sentinel)

/-- What the dispatch of `i` leaves, before the pointer advance (R84, R86); nothing while the host does not act. -/
def dispatched (s : State) : Instr → Option State
  | .halt => some (setHalted s)
  | .ldd => some (setD (data s) s)
  | .rot => some (storeResult (rotate (data s)) s)
  | .jmp => some (setC (data s) s)
  | .nop => some s
  | .out =>
    if s.a = sentinel then some (setHalted s)
    else (s.adapter.writeByte (lowByte s.a)).map fun ad => setPhase .ready (setAdapter ad s)
  | .sub => some (storeResult (subtractDigitwise s.a (data s)) s)
  | .inp => s.adapter.readByte.map fun r => takeAnswer r.1 (setPhase .ready (setAdapter r.2 s))
  | .nopDefault _ => some s

/-- The pointer advance at the end of a step, for halting and other steps alike (R86, R87). -/
def finish (u : State) : State := if !u.halted || u.haltAdvancesPointers then advance u else u

/-- The pointers advance unless the step halted and the parameter is false (R86, R87). -/
theorem finish_advances {u : State} (h : u.halted = true → u.haltAdvancesPointers = true) : finish u = advance u :=
  if_pos (by cases hu : u.halted <;> simp_all)

theorem finish_of_running {u : State} (h : u.halted = false) : finish u = advance u := finish_advances (by simp [h])
theorem finish_setHalted (s : State) : finish (setHalted s) = haltStep s := by
  simp only [finish, haltStep, advanceOnHalt, setHalted_halted, Bool.not_true, Bool.false_or]

@[simp] theorem finish_halted (u : State) : (finish u).halted = u.halted := by unfold finish; split <;> rfl
@[simp] theorem finish_phase (u : State) : (finish u).phase = u.phase := by unfold finish; split <;> rfl
@[simp] theorem finish_adapter (u : State) : (finish u).adapter = u.adapter := by unfold finish; split <;> rfl
@[simp] theorem finish_haltAdvancesPointers (u : State) :
    (finish u).haltAdvancesPointers = u.haltAdvancesPointers := by unfold finish; split <;> rfl

theorem dispatched_of_halts {i : Instr} {s : State} (h : Halts i s) : dispatched s i = some (setHalted s) := by
  rcases h with rfl | ⟨rfl, ha⟩
  · rfl
  · exact if_pos ha

theorem dispatched_out_byte {s : State} (h : s.a ≠ sentinel) : dispatched s .out =
    (s.adapter.writeByte (lowByte s.a)).map fun ad => setPhase .ready (setAdapter ad s) := if_neg h

/-- Dispatch leaves OUT's byte with the host, which has taken it, or halts on the sentinel (R112). -/
theorem dispatched_out_some {s u : State} (h : dispatched s .out = some u) :
    (s.a = sentinel ∧ u = setHalted s) ∨
      (s.a ≠ sentinel ∧ ∃ ad, s.adapter.writeByte (lowByte s.a) = some ad ∧ u = setPhase .ready (setAdapter ad s)) := by
  by_cases ha : s.a = sentinel
  · rw [dispatched_of_halts (.inr ⟨rfl, ha⟩)] at h
    exact .inl ⟨ha, (Option.some.inj h).symm⟩
  · rw [dispatched_out_byte ha] at h
    obtain ⟨ad, hw, rfl⟩ := Option.map_eq_some_iff.1 h
    exact .inr ⟨ha, ad, hw, rfl⟩

/-- Dispatch leaves IN's answer taken (R113). -/
theorem dispatched_inp_some {s u : State} (h : dispatched s .inp = some u) :
    ∃ ans ad, s.adapter.readByte = some (ans, ad) ∧ u = takeAnswer ans (setPhase .ready (setAdapter ad s)) := by
  obtain ⟨⟨ans, ad⟩, hr, rfl⟩ := Option.map_eq_some_iff.1 h
  exact ⟨ans, ad, hr, rfl⟩

/-- An instruction of a running machine completes, as dispatch and the pointer advance, or it waits for the host with all else as
before (R84, R88, R95). -/
theorem exec_cases (i : Instr) {s : State} (hs : s.halted = false) :
    (∃ u, dispatched s i = some u ∧ exec i s = .next (finish u)) ∨
      (dispatched s i = none ∧ ∃ p, p ≠ .ready ∧ exec i s = .next (setPhase p s)) := by
  cases i
  case halt => exact .inl ⟨_, rfl, by rw [exec_halt, finish_setHalted]⟩
  case out =>
    by_cases ha : s.a = sentinel
    · exact .inl ⟨_, dispatched_of_halts (.inr ⟨rfl, ha⟩), by rw [exec_out_sentinel ha, finish_setHalted]⟩
    · rw [exec_out_byte ha, dispatched_out_byte ha]
      rcases offerOut_cases (lowByte s.a) s with ⟨ad, hw, e⟩ | ⟨hw, e⟩
      · exact .inl ⟨_, by rw [hw, Option.map_some], by rw [e, finish_of_running (by simpa using hs), commitOut]⟩
      · exact .inr ⟨by rw [hw, Option.map_none], .waitOut (lowByte s.a), by simp, by rw [e]⟩
  case inp =>
    rw [exec_inp, dispatched]
    rcases requestIn_cases s with ⟨ans, ad, hr, e⟩ | ⟨hr, e⟩
    · exact .inl ⟨_, by rw [hr, Option.map_some], by rw [e, finish_of_running (by simpa using hs), commitIn]⟩
    · exact .inr ⟨by rw [hr, Option.map_none], .waitIn, by simp, by rw [e]⟩
  all_goals exact .inl ⟨_, rfl, by rw [finish_of_running (by simpa using hs)]; rfl⟩

/-- A dispatch that completes is followed by the pointer advance (R84). -/
theorem exec_of_dispatched {i : Instr} {s u : State} (hs : s.halted = false) (h : dispatched s i = some u) :
    exec i s = .next (finish u) := by
  rcases exec_cases i hs with ⟨v, hv, e⟩ | ⟨hn, -⟩
  · rw [e, Option.some.inj (h.symm.trans hv)]
  · simp [h] at hn

/-- An instruction that leaves the machine between steps has completed (R94). -/
theorem exists_dispatched_of_exec {i : Instr} {s t : State} (hs : s.halted = false) (h : exec i s = .next t)
    (ht : t.phase = .ready) : ∃ u, dispatched s i = some u ∧ t = finish u := by
  rcases exec_cases i hs with ⟨u, hu, e⟩ | ⟨-, p, hne, e⟩ <;> rw [e] at h <;> cases h
  · exact ⟨u, hu, rfl⟩
  · exact absurd ht hne

/-- What dispatch does to each pointer (R86): JMP loads `C`, LDD loads `D`, and no other instruction touches either. -/
theorem dispatched_pointers {i : Instr} {s u : State} (h : dispatched s i = some u) :
    u.c = (if i = .jmp then data s else s.c) ∧ u.d = (if i = .ldd then data s else s.d) := by
  cases i
  case out => rcases dispatched_out_some h with ⟨-, rfl⟩ | ⟨-, ad, -, rfl⟩ <;> simp
  case inp => obtain ⟨ans, ad, -, rfl⟩ := dispatched_inp_some h; simp
  all_goals cases h; simp

/-- Dispatch sets `halted` in the two ways of R92 and never clears it (R21). -/
theorem dispatched_halted {i : Instr} {s u : State} (h : dispatched s i = some u) :
    u.halted = true ↔ s.halted = true ∨ Halts i s := by
  cases i
  case out => rcases dispatched_out_some h with ⟨ha, rfl⟩ | ⟨ha, ad, -, rfl⟩ <;> simp [Halts, ha]
  case inp => obtain ⟨ans, ad, -, rfl⟩ := dispatched_inp_some h; simp [Halts]
  all_goals cases h; simp [Halts]

/-- A dispatch that completes between steps leaves the machine between steps (R95). -/
theorem dispatched_phase {i : Instr} {s u : State} (h : dispatched s i = some u) (hp : s.phase = .ready) : u.phase = .ready := by
  cases i
  case out => rcases dispatched_out_some h with ⟨-, rfl⟩ | ⟨-, ad, -, rfl⟩ <;> simp [hp]
  case inp => obtain ⟨ans, ad, -, rfl⟩ := dispatched_inp_some h; simp
  all_goals cases h; simp [hp]

/-- Dispatch leaves the parameter alone (R10). -/
theorem dispatched_parameter {i : Instr} {s u : State} (h : dispatched s i = some u) :
    u.haltAdvancesPointers = s.haltAdvancesPointers := by
  cases i
  case out => rcases dispatched_out_some h with ⟨-, rfl⟩ | ⟨-, ad, -, rfl⟩ <;> rfl
  case inp => obtain ⟨ans, ad, -, rfl⟩ := dispatched_inp_some h; simp
  all_goals cases h; rfl

/-! From an instruction to a step. -/

/-- A coherent halted state is between steps (R94). -/
theorem Coherent.ready_of_halted {s : State} (hc : Coherent s) (hh : s.halted = true) : s.phase = .ready := by
  obtain ⟨-, hc⟩ := hc
  split at hc <;> simp_all

/-- A coherent halted state answers a step with itself (R89). -/
theorem Coherent.step_of_halted {s : State} (hc : Coherent s) (hh : s.halted = true) : step s = .next s :=
  Machine.step_of_halted (hc.ready_of_halted hh) hh

theorem step_of_running {s : State} (hp : s.phase = .ready) (hh : s.halted = false) : step s = exec (fetchInstr s) s := by
  simp [step, stepWith, hp, hh]

/-- In a wait the instruction at `C` is the one that waits, so a running machine's step is that instruction, outside RESET (R95). -/
theorem Coherent.step_eq_exec {s : State} (hc : Coherent s) (hh : s.halted = false) (hp : s.phase ≠ .reset) :
    step s = exec (fetchInstr s) s := by
  obtain ⟨-, hc⟩ := hc
  split at hc
  · next hr => exact step_of_running hr hh
  · next hr => exact absurd hr hp
  · next hw => rw [step_of_waitIn hw, hc.2, exec_inp]
  · next b hw =>
    obtain ⟨-, hf, ha, rfl⟩ := hc
    rw [step_of_waitOut hw, hf, exec_out_byte ha]

/-- No halting instruction waits: at one, the machine is between steps (R94, R95). -/
theorem Coherent.ready_of_halts {s : State} (hc : Coherent s) (hp : s.phase ≠ .reset) (hi : Halts (fetchInstr s) s) :
    s.phase = .ready := by
  obtain ⟨-, hc⟩ := hc
  split at hc
  · next hr => exact hr
  · next hr => exact absurd hr hp
  · simp [Halts, hc.2] at hi
  · obtain ⟨-, hf, ha, -⟩ := hc
    simp [Halts, hf, ha] at hi

/-! The halted state (R89 to R92). -/

/-- Settles O24: a coherent halted state is between steps, where a step leaves it as it is; so do any number, by induction on it. -/
theorem haltedStepChangesNothing : Obligations.HaltedStepChangesNothing := by
  refine ⟨fun s hc hh => ⟨hc.step_of_halted hh, hh⟩, fun k s hc hh => ?_⟩
  induction k with
  | zero => rfl
  | succ k ih => rw [steps, hc.step_of_halted hh]; exact ih

/-- Every step answers a next state (R120). -/
theorem step_total (s : State) : ∃ t, step s = .next t := by
  match hp : s.phase, hh : s.halted with
  | .reset, _ => exact ⟨_, step_of_reset hp⟩
  | .waitIn, _ => exact ⟨_, step_of_waitIn hp⟩
  | .waitOut _, _ => exact ⟨_, step_of_waitOut hp⟩
  | .ready, true => exact ⟨_, step_of_halted hp hh⟩
  | .ready, false =>
    rw [step_of_running hp hh]
    rcases exec_cases (fetchInstr s) hh with ⟨u, -, e⟩ | ⟨-, p, -, e⟩ <;> exact ⟨_, e⟩

/-- An instruction of a running machine halts it in the two ways of R92. -/
theorem exec_halted_iff {i : Instr} {s t : State} (hs : s.halted = false) (h : exec i s = .next t) :
    t.halted = true ↔ Halts i s := by
  rcases exec_cases i hs with ⟨u, hu, e⟩ | ⟨hn, p, -, e⟩ <;> rw [e] at h <;> cases h
  · rw [finish_halted, dispatched_halted hu, hs]
    simp
  · have hi : ¬Halts i s := fun hi => by simp [dispatched_of_halts hi] at hn
    simp [hs, hi]

/-- Settles O25: a halted machine stays as it is, RESET answers no step, and every other step is the instruction at `C`, which halts
in the two ways. -/
theorem haltedReachedInTwoWays : Obligations.HaltedReachedInTwoWays := by
  refine ⟨step_total, fun _ _ _ => rfl, fun s t hc h => ?_⟩
  by_cases hh : s.halted = true
  · rw [hc.step_of_halted hh] at h
    cases h
    simp [hh]
  by_cases hp : s.phase = .reset
  · rw [step_of_reset hp] at h
    cases h
    simp [hh, hp]
  · have hf : s.halted = false := Bool.eq_false_iff.2 hh
    rw [hc.step_eq_exec hf hp] at h
    rw [exec_halted_iff hf h]
    exact ⟨fun hi => .inr ⟨hc.ready_of_halts hp hi, hi⟩, fun hi => (hi.resolve_left hh).2⟩

/-! The pointers (R86). -/

/-- Settles O26: a completed step is dispatch, which loads `C` for JMP and `D` for LDD, and then the advance of both pointers. -/
theorem pointersAdvanceAfterDispatch : Obligations.PointersAdvanceAfterDispatch := by
  refine ⟨fun s t hc hh hp h ht hflag => ?_, by decide⟩
  rw [hc.step_eq_exec hh hp] at h
  obtain ⟨u, hu, rfl⟩ := exists_dispatched_of_exec hh h ht
  obtain ⟨hcu, hdu⟩ := dispatched_pointers hu
  rw [finish_advances (by simpa [dispatched_parameter hu] using hflag), ← hcu, ← hdu]
  exact ⟨rfl, rfl⟩

/-! The pseudocode over plain numbers (R84). -/

/-- The advance of the pseudocode is the advance of the machine. -/
theorem specView_finish (u : State) : specView (finish u) = specAdvance u.haltAdvancesPointers (specView u) := by
  rw [finish, apply_ite specView]
  rfl

/-- The store of ROT and SUB, as numbers (R101). -/
theorem specView_storeResult (r : Word) (s : State) : specView (storeResult r s) =
    { specView s with A := r.val, memory := specWrite (specView s).memory s.d.val r.val } := by
  have hmem : (specView (storeResult r s)).memory = specWrite (specView s).memory s.d.val r.val := by
    funext x
    by_cases hx : x < 59049
    · simp [specView, specWrite, hx, Memory.read_write, Fin.ext_iff, apply_ite Fin.val]
    · have hxd : x ≠ s.d.val := fun e => hx (e ▸ s.d.isLt)
      simp [specView, specWrite, hx, hxd]
  rw [← hmem]
  rfl

/-- The digit-wise subtraction is that of the pseudocode (R78). -/
theorem specSubtract_val (x y : Word) : specSubtract x.val y.val = (subtractDigitwise x y).val := by
  have hsum : specSubtract x.val y.val =
      ∑ i ∈ Finset.range 10, (((specTrit x.val i : Int) - (specTrit y.val i : Int)) % 3).toNat * 3 ^ i := rfl
  zify
  rw [hsum, subtractDigitwise_val]
  push_cast
  refine Finset.sum_congr rfl fun i _ => ?_
  rw [Int.toNat_of_nonneg (Int.emod_nonneg _ (by decide))]
  rfl

/-- The instruction's word is what the pseudocode fetches at `C` (R85). -/
theorem specView_fetch (s : State) : (specView s).memory (specView s).C = (instrWord s).val := dif_pos s.c.isLt

/-- `data` is what the pseudocode fetches at `D` (R85). -/
theorem specView_data (s : State) : (specView s).memory (specView s).D = (data s).val := dif_pos s.d.isLt

/-- OUT's dispatch is that of the pseudocode (R112). -/
theorem specView_dispatched_out {s u : State} (h : dispatched s .out = some u) (x : Nat) :
    specView u = specDispatch 123 x (specView s) := by
  rcases dispatched_out_some h with ⟨ha, rfl⟩ | ⟨ha, ad, hw, rfl⟩
  · simp [specDispatch, specView, ha]
  · obtain ⟨htaken, -, hanswers, -⟩ := writeByte_some hw
    have ha : s.a.val ≠ 59048 := fun e => ha (Fin.ext e)
    simp [specDispatch, specView, ha, htaken, hanswers, lowByte]

/-- IN's dispatch is that of the pseudocode, whether the answer was queued or is the end of input after the queue (R111, R113). -/
theorem specView_dispatched_inp {s u : State} (h : dispatched s .inp = some u) (x : Nat) :
    specView u = specDispatch 125 x (specView s) := by
  obtain ⟨ans, ad, hr, rfl⟩ := dispatched_inp_some h
  obtain ⟨-, htaken, -, -, hq⟩ := readByte_some hr
  rcases hq with hq | ⟨hq, hq', -, rfl⟩
  · cases ans <;> simp [specDispatch, specView, hq, htaken, zextByte]
  · simp [specDispatch, specView, hq, hq', htaken]

/-- A word that is none of the eight codes dispatches to nothing (R84, R119). -/
theorem specDispatch_of_not_opcode {w : Word} (h : w ∉ opcodes) (x : Nat) (m : SpecState) : specDispatch w.val x m = m := by
  simp only [opcodes, List.mem_cons, List.not_mem_nil, or_false, not_or, Fin.ext_iff] at h
  obtain ⟨h33, h42, h62, h94, h95, h123, h124, h125⟩ := h
  unfold specDispatch
  repeat rw [if_neg (by assumption)]

/-- The commuting diagram of dispatch: what the machine's dispatch leaves, as numbers, is what the pseudocode's leaves (R84). -/
theorem specView_dispatched {i : Instr} {s u : State} (hi : WellFormed i = true) (h : dispatched s i = some u) :
    specView u = specDispatch (encode i).val (data s).val (specView s) := by
  cases i
  case out => exact specView_dispatched_out h _
  case inp => exact specView_dispatched_inp h _
  case rot => cases h; rw [specView_storeResult]; rfl
  case sub => cases h; rw [specView_storeResult, ← specSubtract_val]; rfl
  case nopDefault w =>
    cases h
    exact (specDispatch_of_not_opcode (w := w) (by simpa [WellFormed] using hi) _ _).symm
  all_goals cases h; rfl

/-- A running machine's instruction that completes is the pseudocode's step (R84). -/
theorem specView_exec {s t : State} (hh : s.halted = false) (h : exec (fetchInstr s) s = .next t)
    (ht : t.phase = .ready) : specView t = specStep s.haltAdvancesPointers (specView s) := by
  obtain ⟨u, hu, rfl⟩ := exists_dispatched_of_exec hh h ht
  have hrun : (specView s).halted = false := hh
  calc specView (finish u)
    _ = specAdvance u.haltAdvancesPointers (specView u) := specView_finish u
    _ = specAdvance s.haltAdvancesPointers (specDispatch (encode (fetchInstr s)).val (data s).val (specView s)) := by
      rw [dispatched_parameter hu, specView_dispatched (i := fetchInstr s) (wellFormed_decode _) hu]
    _ = specAdvance s.haltAdvancesPointers (specDispatch (instrWord s).val (data s).val (specView s)) := by
      rw [fetchInstr, encode_decode]
    _ = specStep s.haltAdvancesPointers (specView s) := by
      simp only [specStep, hrun, specView_fetch, specView_data, Bool.false_eq_true, if_false]

/-- A host that takes every byte takes this one and stays as it is but for its record (R111). -/
theorem writeByte_of_always {ad : Adapter} (h : ad.takes = .always) (b : Byte) : ad.writeByte b = some (ad.logByte b) := by
  simp [Adapter.writeByte, h]

/-- With a host that answers, every dispatch completes, and the host goes on answering (R111). -/
theorem dispatched_of_hostAnswers (i : Instr) {s : State} (hs : HostAnswers s) :
    ∃ u, dispatched s i = some u ∧ HostAnswers u := by
  obtain ⟨hafter, htakes⟩ := hs
  cases i
  case out =>
    by_cases ha : s.a = sentinel
    · exact ⟨_, dispatched_of_halts (.inr ⟨rfl, ha⟩), hafter, htakes⟩
    · refine ⟨_, by rw [dispatched_out_byte ha, writeByte_of_always htakes, Option.map_some], ?_⟩
      exact ⟨hafter, htakes⟩
  case inp =>
    match hr : s.adapter.readByte with
    | none => simp [(readByte_none.1 hr).2] at hafter
    | some (ans, ad) =>
      obtain ⟨-, -, ht, ha, -⟩ := readByte_some hr
      refine ⟨_, by rw [dispatched, hr, Option.map_some], ?_⟩
      simp [HostAnswers, ht, ha, hafter, htakes]
  all_goals exact ⟨_, rfl, hafter, htakes⟩

/-- Settles O34: dispatch and the advance commute with the view as numbers; a host that answers lets every dispatch complete. -/
theorem stepRefinesPseudocode : Obligations.StepRefinesPseudocode := by
  refine ⟨fun s t hp h ht => ?refines, fun s hp hs => ?completes⟩
  case refines =>
    suffices hview : specView t = specStep s.haltAdvancesPointers (specView s) from
      ⟨hview, congrArg SpecState.halted hview⟩
    match hh : s.halted with
    | true =>
      rw [step_of_halted hp hh] at h
      cases h
      exact (if_pos hh).symm
    | false => exact specView_exec hh (step_of_running hp hh ▸ h) ht
  case completes =>
    match hh : s.halted with
    | true => exact ⟨s, step_of_halted hp hh, hp, hs, rfl⟩
    | false =>
      obtain ⟨u, hu, hans⟩ := dispatched_of_hostAnswers (fetchInstr s) hs
      have hstep : step s = .next (finish u) := (step_of_running hp hh).trans (exec_of_dispatched hh hu)
      exact ⟨_, hstep, by rw [finish_phase, dispatched_phase hu hp], by simpa [HostAnswers] using hans,
        by rw [finish_haltAdvancesPointers, dispatched_parameter hu]⟩

end Machine
end Sys2Proof
end

section
/-! PROOFS of the family 42_arithmetic.md: what ROT and SUB leave in `A`, in memory and in the pointers (R102, R103), with the facts about
the trits of their results (R77 to R79) that their corner cases rest on. -/

namespace Sys2Proof.Machine

/-! Trits of the two results. -/

/-- Two words are equal exactly when their ten trits are (R12). -/
theorem word_eq_iff_trits {x y : Word} : x = y ↔ ∀ i : Fin 10, trit x i.val = trit y i.val :=
  ⟨fun h _ => h ▸ rfl, word_ext⟩

theorem trit_zero (i : Fin 10) : trit 0 i.val = 0 := by decide +revert
theorem trit_sentinel (i : Fin 10) : trit sentinel i.val = 2 := by decide +revert

/-- The rotation in its digit form (R77). -/
theorem rotate_eq_fromTrits (x : Word) : rotate x = fromTrits fun i => trit x ((i.val + 1) % 10) := by
  apply Fin.ext
  simp only [rotate, fromTrits, trit_val]
  norm_num
  omega

/-- One rotation moves every trit one place down, and trit 0 to place 9 (R77). -/
theorem trit_rotate (x : Word) (i : Fin 10) : trit (rotate x) i.val = trit x ((i.val + 1) % 10) := by
  rw [rotate_eq_fromTrits, trit_fromTrits]

/-- `k` rotations move every trit `k` places down, around the word (R77). -/
theorem trit_rotate_iterate (k : Nat) (x : Word) (i : Fin 10) :
    trit (rotate^[k] x) i.val = trit x ((i.val + k) % 10) := by
  induction k generalizing x with
  | zero => rw [Function.iterate_zero_apply, Nat.add_zero, Nat.mod_eq_of_lt i.isLt]
  | succ k ih =>
    have hplace : ((i.val + k) % 10 + 1) % 10 = (i.val + (k + 1)) % 10 := by omega
    rw [Function.iterate_succ_apply, ih, ← hplace]
    exact trit_rotate x ⟨(i.val + k) % 10, Nat.mod_lt _ (by decide)⟩

/-- Ten rotations bring every trit back to its place (R81). -/
theorem rotate_iterate_ten (x : Word) : rotate^[10] x = x :=
  word_ext fun i => by rw [trit_rotate_iterate, Nat.add_mod_right, Nat.mod_eq_of_lt i.isLt]

/-- The three words of ten equal trits rotate to themselves (R81, R102). -/
theorem rotate_of_equal_trits {x : Word} (h : x = 0 ∨ x = 29524 ∨ x = 59048) : rotate x = x := by
  rcases h with rfl | rfl | rfl <;> rfl

/-- No borrow passes between the lanes of the subtraction (R79). -/
theorem trit_subtractDigitwise (x y : Word) (i : Fin 10) :
    trit (subtractDigitwise x y) i.val = subTrit (trit x i.val) (trit y i.val) :=
  trit_fromTrits _ i

theorem subtractDigitwise_self (x : Word) : subtractDigitwise x x = 0 :=
  word_ext fun i => by rw [trit_subtractDigitwise, trit_zero, subTrit, sub_self]

/-- Subtraction leaves `x` unchanged exactly when every lane of `y` is 0 (R103). -/
theorem subtractDigitwise_eq_left_iff {x y : Word} : subtractDigitwise x y = x ↔ y = 0 := by
  simp only [word_eq_iff_trits, trit_subtractDigitwise, trit_zero, subTrit, sub_eq_self]

/-- Exchanging the operands negates every lane (R82). -/
theorem subtractDigitwise_swap (x y : Word) : subtractDigitwise y x = subtractDigitwise 0 (subtractDigitwise x y) :=
  word_ext fun i => by simp only [trit_subtractDigitwise, trit_zero, subTrit, zero_sub, neg_sub]

/-- The result is the sentinel exactly when every lane's difference is 2 (R82, R103). -/
theorem subtractDigitwise_eq_sentinel_iff {x y : Word} : subtractDigitwise x y = sentinel ↔
    ∀ i : Fin 10, (((trit x i.val).val : Int) - ((trit y i.val).val : Int)) % 3 = 2 := by
  rw [word_eq_iff_trits]
  simp only [trit_subtractDigitwise, trit_sentinel, ← subTrit_val, Fin.ext_iff]
  norm_cast

/-- Subtraction from 0 keeps a trit 0 and exchanges 1 and 2 (R82, R103). -/
theorem subTrit_zero_left (y : Trit) :
    (y = 0 → subTrit 0 y = 0) ∧ (y = 1 → subTrit 0 y = 2) ∧ (y = 2 → subTrit 0 y = 1) := by
  decide +revert

/-! What ROT and SUB share: the result goes to `A` and to the cell at `D`, and the pointers advance (R86, R101). -/

/-- Writing back the word that an address holds changes no word of memory. -/
theorem Memory.read_write_self (m : Memory) (x y : Word) : (m.write x (m.read x)).read y = m.read y := by
  rw [Memory.read_write]
  split
  · next h => rw [h]
  · rfl

/-- The frame of ROT and SUB. -/
theorem advance_storeResult_frame (r : Word) (s : State) :
    SameMemoryBut s.d s (advance (storeResult r s)) ∧ Advanced s.c s.d (advance (storeResult r s)) ∧
      SameControl s (advance (storeResult r s)) :=
  ⟨fun _ hy => Memory.read_write_other s.mem r hy, ⟨rfl, rfl⟩, rfl, rfl, rfl, rfl, rfl⟩

/-- With both pointers at 0 the result stands at address 0 and the pointers go to 1. -/
theorem advance_storeResult_at_zero (r : Word) {s : State} (hc : s.c = 0) (hd : s.d = 0) :
    (advance (storeResult r s)).a = r ∧ (advance (storeResult r s)).mem.read 0 = r ∧
      (advance (storeResult r s)).c = 1 ∧ (advance (storeResult r s)).d = 1 := by
  simp [hc, hd, incr]

/-- With `C = D` the instruction's own word is its operand (R85). -/
theorem data_eq_instrWord {s : State} (h : s.c = s.d) : data s = instrWord s := by
  rw [data, instrWord, h]

/-- A step at address 0 with both pointers there runs the word that it also takes as its operand (R84, R85). -/
theorem step_at_zero {s : State} {w : Word} (hc : s.c = 0) (hd : s.d = 0) (hw : s.mem.read 0 = w) (hp : s.phase = .ready)
    (hh : s.halted = false) : step s = exec (decode w) s ∧ data s = w := by
  refine ⟨?_, by rw [data, hd, hw]⟩
  rw [step_of_running hp hh, fetchInstr, instrWord, hc, hw]

theorem exec_rot_mem {s t : State} (h : exec .rot s = .next t) : t.mem = s.mem.write s.d (rotate (data s)) := by
  cases h; rfl
theorem exec_rot_a {s t : State} (h : exec .rot s = .next t) : t.a = rotate (data s) := by
  cases h; rfl
theorem exec_rot_read {s t : State} (h : exec .rot s = .next t) : t.mem.read s.d = rotate (data s) := by
  rw [exec_rot_mem h, Memory.read_write_same]

theorem exec_sub_a {s t : State} (h : exec .sub s = .next t) : t.a = subtractDigitwise s.a (data s) := by
  cases h; rfl
/-- SUB leaves the same word in the cell as in `A` (R101). -/
theorem exec_sub_read {s t : State} (h : exec .sub s = .next t) : t.mem.read s.d = t.a := by
  cases h; exact Memory.read_write_same _ _ _

/-! ROT (R102). -/

/-- ROT on a word of ten equal trits changes no word of memory (R102). -/
theorem exec_rot_of_equal_trits {s t : State} (hx : data s = 0 ∨ data s = 29524 ∨ data s = 59048)
    (h : exec .rot s = .next t) : t.a = data s ∧ SameMemory s t := by
  refine ⟨(exec_rot_a h).trans (rotate_of_equal_trits hx), fun y => ?_⟩
  rw [exec_rot_mem h, rotate_of_equal_trits hx]
  exact Memory.read_write_self s.mem s.d y

/-- ROT with itself as operand (R76, R102). -/
theorem exec_rot_self {s t : State} (hcd : s.c = s.d) (hi : instrWord s = 62) (h : exec .rot s = .next t) :
    data s = 62 ∧ t.a = 39386 ∧ t.mem.read s.c = 39386 ∧ decode (t.mem.read s.c) = .nopDefault 39386 := by
  have hdata : data s = 62 := (data_eq_instrWord hcd).trans hi
  have hread : t.mem.read s.c = 39386 := by rw [hcd, exec_rot_read h, hdata]; rfl
  exact ⟨hdata, by rw [exec_rot_a h, hdata]; rfl, hread, by rw [hread]; rfl⟩

/-- `k` executions of ROT on one cell that nothing else changes rotate its word `k` times (R102). -/
theorem read_after_rots {before after : Nat → State} {x : Word} (k : Nat)
    (h : ∀ n < k, (before n).d = x ∧ exec .rot (before n) = .next (after n) ∧
      (before (n + 1)).mem.read x = (after n).mem.read x) :
    (before k).mem.read x = rotate^[k] ((before 0).mem.read x) := by
  induction k with
  | zero => rfl
  | succ k ih =>
    obtain ⟨hd, hrot, hnext⟩ := h k k.lt_succ_self
    have hcell : (after k).mem.read x = rotate ((before k).mem.read x) := by
      rw [← hd]
      exact exec_rot_read hrot
    rw [hnext, hcell, ih fun n hn => h n (by omega), Function.iterate_succ_apply']

/-- Settles O11: the store and the advance give result and frame; equal trits stay under rotation; ten rotations are the identity. -/
theorem rotInstruction : Obligations.RotInstruction := by
  refine ⟨rfl, fun s => ?result, fun _ _ => rfl, fun s t => exec_rot_of_equal_trits, fun s t hx h => ?sentinel,
    fun s t => exec_rot_self, fun before after x h => ?ten, fun s hc hd hw hp hh => ?worked⟩
  case result => exact ⟨_, exec_rot s, rfl, rfl, Memory.read_write_same _ _ _, advance_storeResult_frame _ s⟩
  case sentinel =>
    have ha : t.a = sentinel := by rw [exec_rot_a h, hx]; rfl
    exact ⟨ha, haltStep t, exec_out_sentinel ha, haltStep_halted t, haltStep_adapter t⟩
  case ten => rw [read_after_rots 10 h, rotate_iterate_ten]
  case worked =>
    obtain ⟨hstep, hdata⟩ := step_at_zero hc hd hw hp hh
    refine ⟨_, hstep.trans (exec_rot s), ?_⟩
    rw [hdata]
    exact advance_storeResult_at_zero 39386 hc hd

/-! SUB (R103). -/

/-- SUB leaves `A` unchanged exactly when `data` is 0 (R103). -/
theorem exec_sub_a_eq_iff {s t : State} (h : exec .sub s = .next t) : t.a = s.a ↔ data s = 0 := by
  rw [exec_sub_a h, subtractDigitwise_eq_left_iff]

/-- SUB from `A = 0` negates every trit of `data` (R103). -/
theorem exec_sub_of_a_zero {s t : State} (ha : s.a = 0) (h : exec .sub s = .next t) (i : Fin 10) :
    trit t.a i.val = subTrit 0 (trit (data s) i.val) := by
  rw [exec_sub_a h, trit_subtractDigitwise, ha, trit_zero]

/-- SUB with itself as operand (R103). -/
theorem exec_sub_self {s t : State} (hcd : s.c = s.d) (hi : instrWord s = 124) (ha : s.a = 0)
    (h : exec .sub s = .next t) :
    data s = 124 ∧ t.a = 239 ∧ t.mem.read s.c = 239 ∧ decode (t.mem.read s.c) = .nopDefault 239 := by
  have hdata : data s = 124 := (data_eq_instrWord hcd).trans hi
  have hta : t.a = 239 := by rw [exec_sub_a h, ha, hdata]; rfl
  have hread : t.mem.read s.c = 239 := by rw [hcd, exec_sub_read h, hta]
  exact ⟨hdata, hta, hread, by rw [hread]; rfl⟩

/-- Settles O12: the store and the advance give result and frame; each corner case is a law of the subtraction, lane by lane. -/
theorem subInstruction : Obligations.SubInstruction := by
  refine ⟨rfl, fun s => ?result, fun s t ha h => ?equal, fun s t h => ?unchanged, fun s t ha h i => ?negate, fun s t h => ?sentinel,
    fun s t ha hx h => ?ones, fun s t => exec_sub_self, fun s t ha hx h => ?noBorrow, by decide, subtractDigitwise_swap,
    fun s ha hc hd hw hp hh => ?worked⟩
  case result =>
    refine ⟨_, exec_sub s, rfl, fun i => ?_, Memory.read_write_same _ _ _, advance_storeResult_frame _ s⟩
    rw [advance_a, storeResult_a, trit_subtractDigitwise, subTrit_val]
  case equal =>
    have hta : t.a = 0 := by rw [exec_sub_a h, ha, subtractDigitwise_self]
    exact ⟨hta, (exec_sub_read h).trans hta⟩
  case unchanged =>
    refine ⟨fun hx => ?_, (exec_sub_a_eq_iff h).1⟩
    have hta : t.a = s.a := (exec_sub_a_eq_iff h).2 hx
    exact ⟨hta, (exec_sub_read h).trans hta⟩
  case negate => rw [exec_sub_of_a_zero ha h]; exact subTrit_zero_left _
  case sentinel => rw [exec_sub_a h, subtractDigitwise_eq_sentinel_iff]
  case ones => rw [exec_sub_a h, ha, hx]; rfl
  case noBorrow => rw [exec_sub_a h, ha, hx]; rfl
  case worked =>
    obtain ⟨hstep, hdata⟩ := step_at_zero hc hd hw hp hh
    refine ⟨_, hstep.trans (exec_sub s), ?_⟩
    rw [ha, hdata]
    exact advance_storeResult_at_zero 239 hc hd

end Sys2Proof.Machine
end

section
/-! PROOFS of the family 43_pointer_control.md: LDD and JMP load one pointer before the advance (R105, R106), and no other instruction
tells the two pointers apart. -/

namespace Sys2Proof.Machine

/-! The pointer increment (R86). -/

/-- The increment wraps from the last address to 0. -/
theorem incr_sentinel : incr sentinel = 0 := rfl

theorem incr_ne_self (x : Word) : incr x ≠ x := by
  intro h
  have hval : (x.val + 1) % 59049 = x.val := congrArg Fin.val h
  omega

/-! Loading a pointer. -/

/-- Loading `D` with the word it holds changes nothing. -/
theorem setD_self (s : State) : setD s.d s = s := rfl

/-- Loading `C` with the word it holds changes nothing. -/
theorem setC_self (s : State) : setC s.c s = s := rfl

theorem exec_ldd_d {s t : State} (h : exec .ldd s = .next t) : t.d = incr (data s) := by
  cases h; rfl
theorem exec_jmp_c {s t : State} (h : exec .jmp s = .next t) : t.c = incr (data s) := by
  cases h; rfl
theorem exec_jmp_d {s t : State} (h : exec .jmp s = .next t) : t.d = incr s.d := by
  cases h; rfl

/-- A halting step moves both pointers or neither (R87). -/
theorem haltStep_pointers (s : State) :
    ((haltStep s).c = incr s.c ∧ (haltStep s).d = incr s.d) ∨ ((haltStep s).c = s.c ∧ (haltStep s).d = s.d) := by
  cases hp : s.haltAdvancesPointers
  · exact .inr (by simp [hp])
  · exact .inl (by simp [hp])

/-- What an instruction does to the pointers, whether or not the machine is halted: both advance, from `data` in the pointer that JMP or
LDD loads, or both stay, as in a wait or at a halt whose parameter is false (R86, R87, R95). -/
theorem exec_pointers {i : Instr} {s t : State} (h : exec i s = .next t) :
    (t.c = incr (if i = .jmp then data s else s.c) ∧ t.d = incr (if i = .ldd then data s else s.d)) ∨
      (t.c = s.c ∧ t.d = s.d) := by
  cases i
  case halt => cases h; exact haltStep_pointers s
  case out =>
    by_cases ha : s.a = sentinel
    · rw [exec_out_sentinel ha] at h; cases h; exact haltStep_pointers s
    · rw [exec_out_byte ha] at h; cases h
      rcases offerOut_cases (lowByte s.a) s with ⟨ad, -, e⟩ | ⟨-, e⟩ <;> rw [e]
      · exact .inl ⟨rfl, rfl⟩
      · exact .inr ⟨rfl, rfl⟩
  case inp =>
    cases h
    rcases requestIn_cases s with ⟨ans, ad, -, e⟩ | ⟨-, e⟩ <;> rw [e]
    · exact .inl ⟨commitIn_c ans ad s, commitIn_d ans ad s⟩
    · exact .inr ⟨rfl, rfl⟩
  all_goals cases h; exact .inl ⟨rfl, rfl⟩

/-- Pointers that are equal stay equal under every instruction but LDD and JMP (R105). -/
theorem exec_keeps_equal_pointers {i : Instr} {s t : State} (hcd : s.c = s.d) (hl : i ≠ .ldd) (hj : i ≠ .jmp)
    (h : exec i s = .next t) : t.c = t.d := by
  rcases exec_pointers h with ⟨hc, hd⟩ | ⟨hc, hd⟩
  · rw [hc, hd, if_neg hj, if_neg hl, hcd]
  · rw [hc, hd, hcd]

/-! The two instructions. -/

/-- Settles O13: `D` is loaded and then advanced with `C`; no other instruction but JMP parts equal pointers. -/
theorem lddInstruction : Obligations.LddInstruction := by
  refine ⟨rfl, fun s => ?result, fun s t hx h => ?wrap, fun s t hx h => ?asNop, fun s t hcd hi h => ?self,
    fun i s t => exec_keeps_equal_pointers, fun s hc hd hw hp hh => ?worked⟩
  case result => exact ⟨_, exec_ldd s, ⟨rfl, rfl⟩, rfl, fun _ => rfl, ⟨rfl, rfl, rfl, rfl, rfl⟩, rfl⟩
  case wrap => rw [exec_ldd_d h, hx, incr_sentinel]
  case asNop => rw [← h, exec_ldd, hx, setD_self, exec_nop]
  case self => rw [exec_ldd_d h, data_eq_instrWord hcd, hi]; rfl
  case worked =>
    obtain ⟨hstep, hdata⟩ := step_at_zero hc hd hw hp hh
    refine ⟨_, hstep.trans (exec_ldd s), ?_⟩
    simp [hc, hdata, incr]

/-- Settles O14: `C` is loaded and then advanced with `D`, so a jump that lands on itself still moves `D`. -/
theorem jmpInstruction : Obligations.JmpInstruction := by
  refine ⟨rfl, fun s => ?result, fun s t hx h => ?wrap, fun s t hx h => ?asNop, fun s t hx h => ?before,
    fun s t hcd hi h => ?self, fun s hc hd hw hp hh => ?worked⟩
  case result => exact ⟨_, exec_jmp s, ⟨rfl, rfl⟩, rfl, fun _ => rfl, ⟨rfl, rfl, rfl, rfl, rfl⟩, rfl⟩
  case wrap => rw [exec_jmp_c h, hx, incr_sentinel]
  case asNop => rw [← h, exec_jmp, hx, setC_self, exec_nop]
  case before =>
    have hd : t.d = incr s.d := exec_jmp_d h
    exact ⟨(exec_jmp_c h).trans hx, hd, hd ▸ incr_ne_self s.d⟩
  case self => rw [exec_jmp_c h, data_eq_instrWord hcd, hi]; rfl
  case worked =>
    obtain ⟨hstep, hdata⟩ := step_at_zero hc hd hw hp hh
    refine ⟨_, hstep.trans (exec_jmp s), ?_⟩
    simp [hd, hdata, incr]

end Sys2Proof.Machine
end

section
/-! PROOFS of the family 44_io.md: the bytes a step moves between the core and the host (R116). -/

namespace Sys2Proof.Machine

/-! What dispatch does to the adapter (R112, R113). -/

/-- IN's dispatch moves one answer to the record: the queue's first, or end of input after the queue (R111, R113). -/
theorem dispatched_inp_adapter {s u : State} (h : dispatched s .inp = some u) :
    ∃ ans, u.adapter.answered = s.adapter.answered ++ [ans] ∧ u.adapter.taken = s.adapter.taken ∧
      (s.adapter.answers = ans :: u.adapter.answers ∨ (s.adapter.answers = [] ∧ u.adapter.answers = [] ∧ ans = .eof)) := by
  obtain ⟨ans, ad, hr, rfl⟩ := dispatched_inp_some h
  obtain ⟨hanswered, htaken, -, -, hqueue⟩ := readByte_some hr
  simp only [takeAnswer_adapter, setPhase_adapter, setAdapter_adapter]
  exact ⟨ans, hanswered, htaken, hqueue.imp_right fun ⟨hs, hu, _, hans⟩ => ⟨hs, hu, hans⟩⟩

/-- The low byte of a word as the spec writes it, `A mod 256` (R36). -/
theorem lowByte_eq_mod (w : Word) : lowByte w = BitVec.ofNat 8 (w.val % 256) :=
  BitVec.eq_of_toNat_eq (by simp [lowByte])

/-- OUT's dispatch appends the byte `A mod 256` to the output and leaves the input alone (R112). -/
theorem dispatched_out_adapter {s u : State} (ha : s.a ≠ sentinel) (h : dispatched s .out = some u) :
    u.adapter.taken = s.adapter.taken ++ [BitVec.ofNat 8 (s.a.val % 256)] ∧ u.adapter.answered = s.adapter.answered ∧
      u.adapter.answers = s.adapter.answers := by
  rcases dispatched_out_some h with ⟨hs, -⟩ | ⟨-, ad, hw, rfl⟩
  · exact absurd hs ha
  · obtain ⟨htaken, hanswered, hanswers, -⟩ := writeByte_some hw
    exact ⟨lowByte_eq_mod s.a ▸ htaken, hanswered, hanswers⟩

/-- Every other dispatch, the halting OUT among them, leaves the adapter alone (R32, R112). -/
theorem dispatched_adapter_of_no_transfer {i : Instr} {s u : State} (h : dispatched s i = some u) (hin : i ≠ .inp)
    (hout : i = .out → s.a = sentinel) : u.adapter = s.adapter := by
  cases i
  case inp => exact absurd rfl hin
  case out =>
    rcases dispatched_out_some h with ⟨-, rfl⟩ | ⟨ha, -⟩
    · rfl
    · exact absurd (hout rfl) ha
  all_goals cases h; rfl

/-! From dispatch to a step. -/

/-- A dispatch that completes ends any wait it began in: the machine is between steps after it (R94, R95). -/
theorem Coherent.ready_of_dispatched {s u : State} (hc : Coherent s) (hp : s.phase ≠ .reset)
    (h : dispatched s (fetchInstr s) = some u) : u.phase = .ready := by
  obtain ⟨-, hc⟩ := hc
  split at hc
  · next hr => exact dispatched_phase h hr
  · next hr => exact absurd hr hp
  · rw [hc.2] at h
    obtain ⟨ans, ad, -, rfl⟩ := dispatched_inp_some h
    simp
  · obtain ⟨-, hf, ha, -⟩ := hc
    rw [hf] at h
    rcases dispatched_out_some h with ⟨hs, -⟩ | ⟨-, ad, -, rfl⟩
    · exact absurd hs ha
    · rfl

/-- A step that completes no instruction, because the machine is halted, in RESET or left waiting, moves nothing (R89, R95, R97). -/
theorem Coherent.step_adapter_of_incomplete {s t : State} (hc : Coherent s) (h : step s = .next t)
    (hn : ¬(s.halted = false ∧ s.phase ≠ .reset ∧ t.phase = .ready)) : t.adapter = s.adapter := by
  by_cases hp : s.phase = .reset
  · rw [step_of_reset hp] at h
    cases h
    rfl
  match hh : s.halted with
  | true =>
    rw [hc.step_of_halted hh] at h
    cases h
    rfl
  | false =>
    rw [hc.step_eq_exec hh hp] at h
    rcases exec_cases (fetchInstr s) hh with ⟨u, hu, e⟩ | ⟨-, p, -, e⟩ <;> rw [e] at h <;> cases h
    · exact absurd ⟨hh, hp, (finish_phase u).trans (hc.ready_of_dispatched hp hu)⟩ hn
    · rfl

/-- Settles O31: a step that completes is a dispatch, whose transfer depends on the instruction, and the pointer advance, which moves
nothing; a step that does not complete moves nothing. -/
theorem eachTransferIsOneStep : Obligations.EachTransferIsOneStep := by
  intro s t hc h
  by_cases hdone : s.halted = false ∧ s.phase ≠ .reset ∧ t.phase = .ready
  · obtain ⟨hh, hp, ht⟩ := hdone
    rw [hc.step_eq_exec hh hp] at h
    obtain ⟨u, hu, rfl⟩ := exists_dispatched_of_exec hh h ht
    rw [finish_adapter]
    split_ifs with hin hout
    · obtain ⟨-, -, -, hin⟩ := hin
      exact dispatched_inp_adapter (hin ▸ hu)
    · obtain ⟨-, -, -, hout, ha⟩ := hout
      exact dispatched_out_adapter ha (hout ▸ hu)
    · exact dispatched_adapter_of_no_transfer hu (fun e => hin ⟨hh, hp, ht, e⟩)
        fun e => by_contra fun ha => hout ⟨hh, hp, ht, e, ha⟩
  · rw [if_neg fun ⟨hh, hp, ht, _⟩ => hdone ⟨hh, hp, ht⟩, if_neg fun ⟨hh, hp, ht, _⟩ => hdone ⟨hh, hp, ht⟩]
    exact hc.step_adapter_of_incomplete h hdone

end Sys2Proof.Machine
end

section
/-! PROOFS of the family 45_halt_nop.md: the one instruction that halts in every state (R117), and the words whose step is the pointer
advance alone (R118, R119). -/

namespace Sys2Proof.Machine

/-! HALT (R117). -/

/-- The halting step treats the pointers as the parameter says (R87). -/
theorem haltStep_haltPointers (s : State) : HaltPointers s (haltStep s) := by
  cases hp : s.haltAdvancesPointers <;> simp [HaltPointers, Advanced, incr, hp]

/-- An instruction of a running machine answers a next state (R120). -/
theorem exists_exec_of_running (i : Instr) {s : State} (hs : s.halted = false) : ∃ t, exec i s = .next t := by
  rcases exec_cases i hs with ⟨u, -, e⟩ | ⟨-, p, -, e⟩ <;> exact ⟨_, e⟩

/-- Without the sentinel in `A`, HALT is the one way into halted (R92). -/
theorem halts_iff_of_a_ne_sentinel {i : Instr} {s : State} (ha : s.a ≠ sentinel) : Halts i s ↔ i = .halt := by
  simp [Halts, ha]

/-- HALT alone halts from every state: the reset state runs on after any other instruction (R117). -/
theorem exec_always_halts_iff (i : Instr) : (∀ s t : State, exec i s = .next t → t.halted = true) ↔ i = .halt := by
  constructor
  · intro hall
    obtain ⟨t, ht⟩ := exists_exec_of_running i (s := State.reset) rfl
    have hhalts : Halts i State.reset := (exec_halted_iff rfl ht).1 (hall _ _ ht)
    exact (halts_iff_of_a_ne_sentinel (by decide)).1 hhalts
  · rintro rfl s t h
    cases h
    exact haltStep_halted s

/-- Settles O17: the halting step gives result and frame, and a halted machine stays; the reset state tells HALT from the rest. -/
theorem haltInstruction : Obligations.HaltInstruction := by
  refine ⟨rfl, fun s => ?result, exec_always_halts_iff, fun flag => ?worked⟩
  case result =>
    exact ⟨haltStep s, exec_halt s, haltStep_halted s, haltStep_haltPointers s, haltStep_a s, fun x => by rw [haltStep_mem],
      haltStep_hitEof s, haltStep_adapter s, haltStep_phase s, haltStep_haltAdvancesPointers s,
      fun hp => ⟨step_of_halted ((haltStep_phase s).trans hp) (haltStep_halted s), haltStep_halted s⟩⟩
  case worked =>
    obtain ⟨hstep, -⟩ := step_at_zero (s := { boot [(0, 33)] with haltAdvancesPointers := flag }) (w := 33) rfl rfl rfl rfl rfl
    refine ⟨_, hstep.trans (exec_halt _), ?_⟩
    cases flag <;> decide

/-! The no-ops (R118, R119). -/

/-- What the pointer advance does and leaves (R86). -/
theorem advance_frame (s : State) :
    Advanced s.c s.d (advance s) ∧ (advance s).a = s.a ∧ SameMemory s (advance s) ∧ SameControl s (advance s) :=
  ⟨⟨rfl, rfl⟩, rfl, fun _ => rfl, rfl, rfl, rfl, rfl, rfl⟩

theorem exec_nop_c {s t : State} (h : exec .nop s = .next t) : t.c = incr s.c := by
  cases h; rfl
theorem exec_nop_d {s t : State} (h : exec .nop s = .next t) : t.d = incr s.d := by
  cases h; rfl

/-- A running machine at a word that is no opcode only advances its pointers (R119). -/
theorem step_of_not_opcode {s : State} (hp : s.phase = .ready) (hh : s.halted = false) (hw : instrWord s ∉ opcodes) :
    step s = .next (advance s) := by
  rw [step_of_running hp hh, fetchInstr, decode_of_not_opcode hw, exec_nopDefault]

/-- Settles O18: NOP is the pointer advance, which wraps at the last address. -/
theorem nopInstruction : Obligations.NopInstruction := by
  refine ⟨rfl, fun s => ⟨_, exec_nop s, advance_frame s⟩, fun s t hc h => ?wrap, fun s t hc hd h => ?worked⟩
  case wrap => rw [exec_nop_c h, hc, incr_sentinel]
  case worked => exact ⟨by rw [exec_nop_c h, hc]; rfl, by rw [exec_nop_d h, hd]; rfl⟩

/-- Settles O19: a word outside the opcode list takes the default row, whose meaning is the advance that NOP makes. -/
theorem defaultNoOpInstruction : Obligations.DefaultNoOpInstruction := by
  refine ⟨fun w => decode_of_not_opcode, fun w s => (exec_nopDefault w s).trans (exec_nop s).symm,
    fun w s => ⟨_, exec_nopDefault w s, advance_frame s⟩, decode_of_not_opcode (by decide), decode_of_not_opcode (by decide),
    decode_of_not_opcode (by decide), decode_of_not_opcode (by decide), fun s t hp hh hc hz h => ?wrap⟩
  case wrap =>
    have hw : instrWord s ∉ opcodes := by rw [instrWord, hz]; decide
    rw [step_of_not_opcode hp hh hw] at h
    cases h
    exact ⟨by rw [advance_c, hc, incr_sentinel], rfl, rfl, fun _ => rfl⟩

end Sys2Proof.Machine
end

section
/-! PROOFS of the family 60_exceptions.md: no instruction, step or word is without a meaning (R120). -/

namespace Sys2Proof.Machine

/-- Every instruction answers a next state, in a halted machine too (R120). Only OUT looks at the state to choose its meaning. -/
theorem exec_total (i : Instr) (s : State) : ∃ t, exec i s = .next t := by
  cases i
  case out =>
    by_cases ha : s.a = sentinel
    · exact ⟨_, exec_out_sentinel ha⟩
    · exact ⟨_, exec_out_byte ha⟩
  all_goals exact ⟨_, rfl⟩

/-- Settles O21: every instruction and every step answers a next state, and decoding gives a well-formed instruction. -/
theorem nothingTraps : Obligations.NothingTraps := ⟨exec_total, step_total, wellFormed_decode⟩

end Sys2Proof.Machine
end

section
/-! PROOFS of the family other, encoding: decoding and encoding are inverse to each other, a row's comparison is that of the whole stored
word (R54), and the stored forms are the words (R9). -/

namespace Sys2Proof

/-- Every well-formed instruction survives the round trip: the default row carries a word that is no opcode (R55, R57). -/
theorem decode_encode {i : Instr} (h : WellFormed i = true) : decode (encode i) = i := by
  cases i
  case nopDefault w => exact decode_of_not_opcode (w := w) (by simpa [WellFormed] using h)
  all_goals rfl

/-- Settles O2: the round trip of an instruction, and of a word whether it is an opcode or not. -/
theorem decodeEncodeAgree : Obligations.DecodeEncodeAgree :=
  ⟨fun _ => decode_encode, fun w => ⟨wellFormed_decode w, encode_decode w⟩⟩

/-- Different words have different stored forms (R9). -/
theorem storedForm_injective : Function.Injective storedForm := fun v w h =>
  Fin.ext (by rw [← storedForm_toNat v, h, storedForm_toNat w])

/-- Every term but the default row's is an instruction of the machine (R55). -/
theorem wellFormed_of_opcode_row {i : Instr} (h : ∀ v, i ≠ .nopDefault v) : WellFormed i = true := by
  cases i
  case nopDefault w => exact absurd rfl (h w)
  all_goals rfl

/-- A word decodes to the instruction of an opcode row exactly when it is that instruction's word (R54). -/
theorem decode_eq_iff {w : Word} {i : Instr} (h : ∀ v, i ≠ .nopDefault v) : decode w = i ↔ w = encode i :=
  ⟨fun e => by rw [← e, encode_decode], fun e => by rw [e, decode_encode (wellFormed_of_opcode_row h)]⟩

/-- An opcode's row holds the stored form of its word and masks nothing out (R54). -/
theorem opcode_row {i : Instr} (h : ∀ v, i ≠ .nopDefault v) :
    rowMatch i = storedForm (encode i) ∧ rowMask i = BitVec.allOnes 16 := by
  cases i
  case nopDefault w => exact absurd rfl (h w)
  all_goals exact ⟨rfl, rfl⟩

/-- An opcode's row matches a stored word exactly when the word decodes to that opcode (R54). -/
theorem row_matches_iff_decode {w : Word} {i : Instr} (h : ∀ v, i ≠ .nopDefault v) :
    storedForm w &&& rowMask i = rowMatch i ↔ decode w = i := by
  obtain ⟨hmatch, hmask⟩ := opcode_row h
  rw [hmask, BitVec.and_allOnes, hmatch, storedForm_injective.eq_iff, decode_eq_iff h]

/-- A decoded instruction is the default row of its own word or an opcode's row (R57). -/
theorem decode_eq_nopDefault_or (w : Word) : decode w = .nopDefault w ∨ ∀ v, decode w ≠ .nopDefault v := by
  refine or_iff_not_imp_right.2 fun h => ?_
  obtain ⟨v, hv⟩ := not_forall_not.1 h
  have hword : w = v := by rw [← encode_decode w, hv, encode]
  rwa [← hword] at hv

/-- Settles O4: a row that masks nothing out compares the whole word, and decoding has one value. -/
theorem opcodeRowsMatchWholeWords : Obligations.OpcodeRowsMatchWholeWords := by
  refine ⟨fun w i hi => ⟨?whole, row_matches_iff_decode hi⟩, fun w => ⟨fun hd i hi hrow => ?noRow, fun hnone => ?default⟩,
    fun w i j hi hj hrow hrow' => ?unique⟩
  case whole => rw [(opcode_row hi).2, BitVec.and_allOnes]
  case noRow =>
    have hdi : decode w = i := (row_matches_iff_decode hi).1 hrow
    exact hi w (hdi.symm.trans hd)
  case default =>
    refine (decode_eq_nopDefault_or w).resolve_right fun hw => ?_
    exact hnone (decode w) hw ((row_matches_iff_decode hw).2 rfl)
  case unique => rw [← (row_matches_iff_decode hi).1 hrow, (row_matches_iff_decode hj).1 hrow']

/-- The codes that stand for no word (R9, I6). -/
theorem ofStored_eq_none_iff {b : BitVec 16} : ofStored b = none ↔ 59049 ≤ b.toNat := by
  simp [ofStored]

/-- A stored code stands for the one word whose stored form it is (R9). -/
theorem ofStored_eq_some_iff {b : BitVec 16} {w : Word} : ofStored b = some w ↔ storedForm w = b := by
  have hval : storedForm w = b ↔ w.val = b.toNat := by rw [← BitVec.toNat_inj, storedForm_toNat]
  rw [hval, ofStored]
  split
  · simp [Fin.ext_iff, eq_comm]
  · simp; omega

@[simp] theorem ofStored_storedForm (w : Word) : ofStored (storedForm w) = some w := ofStored_eq_some_iff.2 rfl

/-- Settles O5: a word's stored form stands for that word, and a code of 59049 or more for none. -/
theorem storedFormsAreTheWords : Obligations.StoredFormsAreTheWords :=
  ⟨fun w => ⟨storedForm_toNat w, ofStored_storedForm w, by rw [decodeStored, ofStored_storedForm]⟩,
   fun _ => ofStored_eq_none_iff,
   fun _ _ => ofStored_eq_some_iff.1,
   fun _ h => by rw [decodeStored, ofStored_eq_none_iff.2 h]⟩

/-- The instruction of a table word that is a code of a machine word (R52). -/
theorem decodeTableWord_of_word (n : Nat) (w : Word) : decodeTableWord n w.val = some (decode w) := by
  have hw : w.val < 65536 := w.isLt.trans (by decide)
  have hstored : decodeStored (storedForm w) = .ok (decode w) := by rw [decodeStored, ofStored_storedForm]
  rw [decodeTableWord, if_pos hw]
  exact congrArg Except.toOption hstored

/-- A table word of 59049 or more decodes to nothing (R9). -/
theorem decodeTableWord_of_no_word {n w : Nat} (h : 59049 ≤ w) : decodeTableWord n w = none := by
  unfold decodeTableWord
  split
  · next hw =>
    have hcode : 59049 ≤ (BitVec.ofNat 16 w).toNat := by rw [BitVec.toNat_ofNat]; omega
    rw [decodeStored, ofStored_eq_none_iff.2 hcode]
    rfl
  · rfl

/-- Settles O1: each code is a machine word, which decodes by its row; the last two codes are none. -/
theorem writtenWordsDecode : Obligations.WrittenWordsDecode :=
  ⟨decodeTableWord_of_word 16 33, decodeTableWord_of_word 16 42, decodeTableWord_of_word 16 62, decodeTableWord_of_word 16 94,
   decodeTableWord_of_word 16 95, decodeTableWord_of_word 16 123, decodeTableWord_of_word 16 124, decodeTableWord_of_word 16 125,
   decodeTableWord_of_word 16 0, decodeTableWord_of_word 16 59048, decodeTableWord_of_no_word (by decide),
   decodeTableWord_of_no_word (by decide)⟩

end Sys2Proof
end

section
/-! PROOFS of the family other, the ternary arithmetic unit: the laws of the rotation and of the digit-wise subtraction, each proved trit
by trit (R76 to R82). -/

namespace Sys2Proof.Machine

/-! The rotation (R76, R77, R81). -/

/-- Settles O6: the digit form of the rotation is that of its formula, and a word is its ten trits. -/
theorem rotateMovesEveryTrit : Obligations.RotateMovesEveryTrit := by
  have hlow (x : Word) (i : Nat) (hi : i ≤ 8) : trit (rotate x) i = trit x (i + 1) := by
    have hplace : (i + 1) % 10 = i + 1 := Nat.mod_eq_of_lt (by omega)
    simpa [hplace] using trit_rotate x ⟨i, by omega⟩
  refine ⟨fun _ => rfl, fun x => trit_rotate x 9, hlow, fun x y htop hrest => word_ext fun i => ?_, rfl⟩
  rcases Nat.lt_or_eq_of_le (Nat.le_of_lt_succ i.isLt) with hi | hi
  · rw [hrest i (by omega), hlow x i (by omega)]
  · rw [hi, htop]
    exact (trit_rotate x 9).symm

/-- The rotation is undone by nine more (R81). -/
theorem rotate_rotate_iterate_nine (x : Word) : rotate (rotate^[9] x) = x :=
  (Function.iterate_succ_apply' rotate 9 x).symm.trans (rotate_iterate_ten x)

theorem rotate_injective : Function.Injective rotate :=
  Function.LeftInverse.injective (g := rotate^[9]) fun x =>
    (Function.iterate_succ_apply rotate 9 x).symm.trans (rotate_iterate_ten x)

/-- The inverse of the rotation: every trit moves one place up, and trit 9 to place 0 (R81). -/
theorem rotate_iterate_nine_val (x : Word) : (rotate^[9] x).val = x.val % 3 ^ 9 * 3 + x.val / 3 ^ 9 := by
  have hx := x.isLt
  have hrotate : (rotate (rotate^[9] x)).val = x.val := congrArg Fin.val (rotate_rotate_iterate_nine x)
  simp only [rotate] at hrotate
  omega

/-- The fixed points of the rotation, from its formula: `2·⌊x/3⌋ = 19682·(x mod 3)` (R81). -/
theorem rotate_eq_self_iff {x : Word} : rotate x = x ↔ x = 0 ∨ x = 29524 ∨ x = 59048 := by
  refine ⟨fun h => ?_, rotate_of_equal_trits⟩
  have hval : x.val / 3 + x.val % 3 * 19683 = x.val := congrArg Fin.val h
  simp only [Fin.ext_iff, Fin.coe_ofNat_eq_mod, Nat.reduceMod]
  omega

theorem trit_29524 (i : Fin 10) : trit 29524 i.val = 1 := by decide +revert

/-- A word is fixed by the rotation exactly when its ten trits are equal (R81). -/
theorem rotate_eq_self_iff_trits_equal {x : Word} :
    rotate x = x ↔ ∀ i j : Fin 10, trit x i.val = trit x j.val := by
  constructor
  · intro h i j
    rcases rotate_eq_self_iff.1 h with rfl | rfl | rfl
    · rw [trit_zero, trit_zero]
    · rw [trit_29524, trit_29524]
    · exact (trit_sentinel i).trans (trit_sentinel j).symm
  · exact fun h => word_ext fun i => (trit_rotate x i).trans (h ⟨(i.val + 1) % 10, Nat.mod_lt _ (by decide)⟩ i)

/-- The period of a word that comes back after `n` rotations and not before. -/
theorem minimalPeriod_rotate_eq {x : Word} {n : Nat} (hn : 0 < n) (hback : rotate^[n] x = x)
    (hfirst : ∀ k < n, 0 < k → rotate^[k] x ≠ x) : Function.minimalPeriod rotate x = n := by
  have hperiod : Function.IsPeriodicPt rotate n x := hback
  refine (hperiod.minimalPeriod_le hn).antisymm (Nat.le_of_not_lt fun hlt => ?_)
  exact hfirst _ hlt (hperiod.minimalPeriod_pos hn) Function.iterate_minimalPeriod

/-- Settles O7: ten rotations are the identity, so nine are the inverse and every period divides ten; fixed points and periods are read off
the trits. -/
theorem rotateLaws : Obligations.RotateLaws :=
  ⟨rotate_iterate_ten, Finite.injective_iff_bijective.1 rotate_injective,
   fun x => ⟨rotate_iterate_nine_val x, rotate_rotate_iterate_nine x⟩,
   fun _ => rotate_eq_self_iff, fun _ => rotate_eq_self_iff_trits_equal,
   fun x k => by simp only [word_eq_iff_trits, trit_rotate_iterate],
   fun x => Function.IsPeriodicPt.minimalPeriod_dvd (rotate_iterate_ten x),
   minimalPeriod_rotate_eq (by decide) rfl (by decide), minimalPeriod_rotate_eq (by decide) rfl (by decide),
   minimalPeriod_rotate_eq (by decide) rfl (by decide), minimalPeriod_rotate_eq (by decide) rfl (by decide)⟩

/-! The digit-wise subtraction (R78, R79, R82). -/

/-- Settles O9: a lane of the result is the subtraction of the two lanes, whose table is that of `Z/3`. -/
theorem subtractLanesAreIndependent : Obligations.SubtractLanesAreIndependent :=
  ⟨trit_subtractDigitwise, fun x y x' y' i hx hy => by rw [trit_subtractDigitwise, trit_subtractDigitwise, hx, hy],
   by decide, by decide, by decide⟩

theorem subtractDigitwise_zero (x : Word) : subtractDigitwise x 0 = x := subtractDigitwise_eq_left_iff.2 rfl

/-- Negating every lane twice gives the word back (R82). -/
theorem subtractDigitwise_neg_neg (y : Word) : subtractDigitwise 0 (subtractDigitwise 0 y) = y := by
  rw [← subtractDigitwise_swap, subtractDigitwise_zero]

/-- Only equal words have the difference 0 (R82). -/
theorem subtractDigitwise_eq_zero_iff {x y : Word} : subtractDigitwise x y = 0 ↔ x = y := by
  simp only [word_eq_iff_trits, trit_subtractDigitwise, trit_zero, subTrit, sub_eq_zero]

/-- Subtracting the negated operand restores the first operand (R82). -/
theorem subtractDigitwise_restore (x y : Word) :
    x = subtractDigitwise (subtractDigitwise x y) (subtractDigitwise 0 y) :=
  word_ext fun i => by simp only [trit_subtractDigitwise, trit_zero, subTrit, zero_sub, sub_neg_eq_add, sub_add_cancel]

/-- Subtracting 2 in a lane adds 1 (R82). -/
theorem subTrit_two_val (x : Trit) : (subTrit x 2).val = (x.val + 1) % 3 := by
  decide +revert

/-- Settles O10: each law holds in every lane, and a word is its lanes. -/
theorem subtractLaws : Obligations.SubtractLaws := by
  refine ⟨subtractDigitwise_self, fun x y y' i h j hj => ?right, fun x x' y i h j hj => ?left, subtractDigitwise_zero,
    fun y i => ?negate, subtractDigitwise_neg_neg, subtractDigitwise_swap, fun _ _ => subtractDigitwise_eq_zero_iff,
    subtractDigitwise_restore, fun x i => ?sentinel, rfl, rfl, fun _ _ => subtractDigitwise_eq_sentinel_iff, fun s t h ht => ?sub⟩
  case right => rw [trit_subtractDigitwise, trit_subtractDigitwise, h j hj]
  case left => rw [trit_subtractDigitwise, trit_subtractDigitwise, h j hj]
  case negate =>
    rw [trit_subtractDigitwise, trit_zero]
    exact subTrit_zero_left _
  case sentinel => rw [trit_subtractDigitwise, trit_sentinel, subTrit_two_val]
  case sub => exact subtractDigitwise_eq_sentinel_iff.1 ((exec_sub_a h).symm.trans ht)

end Sys2Proof.Machine
end

section
/-! PROOFS of the family other, the shape of a step and of a tick: what either can do, said once, and from it the invariants of the
machine (R94 to R96). -/

namespace Sys2Proof.Machine

/-! The handshakes (R95). -/

/-- The wait `p` in which the instruction `i` stands until the host acts. A halting OUT has none. -/
def WaitsIn (i : Instr) (s : State) (p : Phase) : Prop :=
  (i = .inp ∧ p = .waitIn) ∨ (i = .out ∧ s.a ≠ sentinel ∧ p = .waitOut (lowByte s.a))

/-- A dispatch that the host leaves incomplete stands in its instruction's wait, with all else as before (R95). -/
theorem exec_of_not_dispatched {i : Instr} {s : State} (h : dispatched s i = none) :
    ∃ p, WaitsIn i s p ∧ exec i s = .next (setPhase p s) := by
  cases i
  case out =>
    by_cases ha : s.a = sentinel
    · simp [dispatched_of_halts (.inr ⟨rfl, ha⟩)] at h
    · rw [dispatched_out_byte ha, Option.map_eq_none_iff] at h
      exact ⟨_, .inr ⟨rfl, ha, rfl⟩, by rw [exec_out_byte ha, offerOut, h]⟩
  case inp =>
    rw [dispatched, Option.map_eq_none_iff] at h
    exact ⟨_, .inl ⟨rfl, rfl⟩, by rw [exec_inp, requestIn, h]⟩
  all_goals simp [dispatched] at h

@[simp] theorem requestIn_mem (s : State) : (requestIn s).mem = s.mem := by
  rcases requestIn_cases s with ⟨ans, ad, -, e⟩ | ⟨-, e⟩ <;> simp [e]
@[simp] theorem requestIn_haltAdvancesPointers (s : State) :
    (requestIn s).haltAdvancesPointers = s.haltAdvancesPointers := by
  rcases requestIn_cases s with ⟨ans, ad, -, e⟩ | ⟨-, e⟩ <;> simp [e]
@[simp] theorem offerOut_mem (b : Byte) (s : State) : (offerOut b s).mem = s.mem := by
  rcases offerOut_cases b s with ⟨ad, -, e⟩ | ⟨-, e⟩ <;> simp [e]
@[simp] theorem offerOut_haltAdvancesPointers (b : Byte) (s : State) :
    (offerOut b s).haltAdvancesPointers = s.haltAdvancesPointers := by
  rcases offerOut_cases b s with ⟨ad, -, e⟩ | ⟨-, e⟩ <;> simp [e]
@[simp] theorem offerOut_hitEof (b : Byte) (s : State) : (offerOut b s).hitEof = s.hitEof := by
  rcases offerOut_cases b s with ⟨ad, -, e⟩ | ⟨-, e⟩ <;> simp [e]

/-! A step. -/

/-- What a step can do: run the instruction at `C`, put a pending handshake to the host again, or nothing, under reset and once halted
(R84, R89, R95, R97). -/
theorem step_cases {s t : State} (h : step s = .next t) :
    (s.phase = .ready ∧ s.halted = false ∧ exec (fetchInstr s) s = .next t) ∨
      (s.phase = .waitIn ∧ t = requestIn s) ∨ (∃ b, s.phase = .waitOut b ∧ t = offerOut b s) ∨
      ((s.phase = .reset ∨ (s.phase = .ready ∧ s.halted = true)) ∧ t = s) := by
  match hp : s.phase, hh : s.halted with
  | .reset, _ => rw [step_of_reset hp] at h; cases h; simp
  | .waitIn, _ => rw [step_of_waitIn hp] at h; cases h; simp
  | .waitOut b, _ => rw [step_of_waitOut hp] at h; cases h; simp
  | .ready, true => rw [step_of_halted hp hh] at h; cases h; simp
  | .ready, false => exact .inl ⟨rfl, rfl, step_of_running hp hh ▸ h⟩

/-- An instruction leaves the parameter alone (R10). -/
theorem exec_parameter {i : Instr} {s t : State} (h : exec i s = .next t) :
    t.haltAdvancesPointers = s.haltAdvancesPointers := by
  cases i
  case out =>
    by_cases ha : s.a = sentinel
    · rw [exec_out_sentinel ha] at h; cases h; simp
    · rw [exec_out_byte ha] at h; cases h; simp
  all_goals cases h; simp

/-- A step leaves the parameter alone (R10). -/
theorem step_parameter {s t : State} (h : step s = .next t) : t.haltAdvancesPointers = s.haltAdvancesPointers := by
  rcases step_cases h with ⟨-, -, he⟩ | ⟨-, rfl⟩ | ⟨b, -, rfl⟩ | ⟨-, rfl⟩
  · exact exec_parameter he
  · exact requestIn_haltAdvancesPointers s
  · exact offerOut_haltAdvancesPointers b s
  · rfl

/-! The start of a step (R95). -/

theorem startStep_of_inp {s : State} (h : fetchInstr s = .inp) : startStep s = .next (setPhase .waitIn s) := by
  simp [startStep, h]

theorem startStep_of_out_byte {s : State} (h : fetchInstr s = .out) (ha : s.a ≠ sentinel) :
    startStep s = .next (setPhase (.waitOut (lowByte s.a)) s) := by
  simp [startStep, h, ha]

/-- An instruction without a handshake, the halting OUT among them, is a whole step at once. -/
theorem startStep_eq_exec {s : State} (hin : fetchInstr s ≠ .inp) (hout : fetchInstr s = .out → s.a = sentinel) :
    startStep s = exec (fetchInstr s) s := by
  match hi : fetchInstr s with
  | .inp => exact absurd hi hin
  | .out => simp [startStep, hi, hout hi, exec_out_sentinel (hout hi)]
  | .halt | .ldd | .rot | .jmp | .nop | .sub | .nopDefault w => simp [startStep, hi]

/-- What the start of a step can do: run the instruction at `C`, or raise its request and change nothing else. -/
theorem startStep_cases (s : State) :
    startStep s = exec (fetchInstr s) s ∨ ∃ p, WaitsIn (fetchInstr s) s p ∧ startStep s = .next (setPhase p s) := by
  by_cases hin : fetchInstr s = .inp
  · exact .inr ⟨_, .inl ⟨hin, rfl⟩, startStep_of_inp hin⟩
  by_cases hout : fetchInstr s = .out ∧ s.a ≠ sentinel
  · obtain ⟨hi, ha⟩ := hout
    exact .inr ⟨_, .inr ⟨hi, ha, rfl⟩, startStep_of_out_byte hi ha⟩
  · exact .inl (startStep_eq_exec hin fun hi => by_contra fun ha => hout ⟨hi, ha⟩)

/-! A tick. -/

theorem resetTick_of_load {p : PortsIn} {s : State} {m : Memory} (h : loadPort p s.mem = some m) :
    resetTick p s = .next (setMem m (resetCore s)) := by
  rw [resetTick, h]

theorem loadPort_of_no_load {p : PortsIn} (h : p.loadEn = false) (m : Memory) : loadPort p m = some m := by
  simp [loadPort, h]

theorem loadPort_of_load {p : PortsIn} {x v : Word} (h : p.loadEn = true) (hx : ofStored p.loadAddr = some x)
    (hv : ofStored p.loadData = some v) (m : Memory) : loadPort p m = some (m.write x v) := by
  simp [loadPort, h, hx, hv]

/-- A load of a code that is no word has no meaning (R137). -/
theorem loadPort_of_no_word {p : PortsIn} (h : p.loadEn = true)
    (hn : ofStored p.loadAddr = none ∨ ofStored p.loadData = none) (m : Memory) : loadPort p m = none := by
  unfold loadPort
  rw [if_pos h]
  split
  · next hx hv => simp [hx, hv] at hn
  · rfl

/-- What the load port can do: nothing, or the write of one word (R137). -/
theorem loadPort_some {p : PortsIn} {m m' : Memory} (h : loadPort p m = some m') :
    (p.loadEn = false ∧ m' = m) ∨
      (p.loadEn = true ∧ ∃ x v, ofStored p.loadAddr = some x ∧ ofStored p.loadData = some v ∧ m' = m.write x v) := by
  unfold loadPort at h
  split at h
  · next hen =>
    split at h
    · next x v hx hv => cases h; exact .inr ⟨hen, x, v, hx, hv, rfl⟩
    · cases h
  · next hen => cases h; exact .inl ⟨Bool.eq_false_iff.2 hen, rfl⟩

/-- What a tick can do: reset with its load, the release of reset, the start of a step, an acknowledgement of either port, or nothing
(R95, R135, R137). -/
theorem tick_cases {p : PortsIn} {s t : State} (h : tick p s = .next t) :
    (p.rst = true ∧ ∃ m, loadPort p s.mem = some m ∧ t = setMem m (resetCore s)) ∨
      (p.rst = false ∧ s.phase = .reset ∧ t = setPhase .ready s) ∨
      (p.rst = false ∧ s.phase = .ready ∧ s.halted = false ∧ p.start = true ∧ startStep s = .next t) ∨
      (p.rst = false ∧ s.phase = .waitIn ∧ t = commitIn p.answer (s.adapter.logAnswer p.answer) s) ∨
      (p.rst = false ∧ ∃ b, s.phase = .waitOut b ∧ t = commitOut (s.adapter.logByte b) s) ∨
      (p.rst = false ∧ t = s) := by
  match hr : p.rst, hp : s.phase, hh : s.halted with
  | true, _, _ =>
    rw [tick_of_rst hr, resetTick] at h
    split at h
    · next m hm => cases h; exact .inl ⟨rfl, m, hm, rfl⟩
    · cases h
  | false, .reset, _ => rw [tick_of_reset hr hp] at h; cases h; simp
  | false, .waitIn, _ => rw [tick_of_waitIn hr hp] at h; split at h <;> cases h <;> simp
  | false, .waitOut b, _ => rw [tick_of_waitOut hr hp] at h; split at h <;> cases h <;> simp
  | false, .ready, true => rw [tick_of_halted hr hp hh] at h; cases h; simp
  | false, .ready, false =>
    rw [tick_of_idle hr hp hh] at h
    split at h
    · next hs => simp [hs, h]
    · cases h; simp

/-- A tick leaves the parameter alone, under reset too (R10). -/
theorem tick_parameter {p : PortsIn} {s t : State} (h : tick p s = .next t) :
    t.haltAdvancesPointers = s.haltAdvancesPointers := by
  rcases tick_cases h with ⟨-, m, -, rfl⟩ | ⟨-, -, rfl⟩ | ⟨-, -, -, -, hs⟩ | ⟨-, -, rfl⟩ | ⟨-, b, -, rfl⟩ | ⟨-, rfl⟩
  · rfl
  · rfl
  · rcases startStep_cases s with e | ⟨q, -, e⟩ <;> rw [e] at hs
    · exact exec_parameter hs
    · cases hs; rfl
  · exact commitIn_haltAdvancesPointers _ _ s
  · rfl
  · rfl

/-- Settles O49: neither a step nor a tick has a case that writes the parameter. -/
theorem parameterIsFixed : Obligations.ParameterIsFixed := ⟨fun _ _ => step_parameter, fun _ _ _ => tick_parameter⟩

/-! Coherence. -/

/-- Between steps coherence is the canonical form of memory alone. -/
theorem coherent_of_ready {s : State} (hw : s.mem.wf) (hp : s.phase = .ready) : Coherent s := ⟨hw, by simp [hp]⟩

/-- A running machine may enter the wait of the instruction at `C` (R95). -/
theorem coherent_of_waitsIn {s : State} {p : Phase} (hw : s.mem.wf) (hh : s.halted = false)
    (h : WaitsIn (fetchInstr s) s p) : Coherent (setPhase p s) := by
  rcases h with ⟨hi, rfl⟩ | ⟨hi, ha, rfl⟩
  · exact ⟨hw, hh, hi⟩
  · exact ⟨hw, hh, hi, ha, rfl⟩

/-- Settles O46: the machine boots between steps. -/
theorem resetIsCoherent : Obligations.ResetIsCoherent :=
  ⟨coherent_of_ready State.reset_mem_wf rfl, fun _ hw => coherent_of_ready hw rfl⟩

/-- A step keeps the machine coherent: it completes and leaves the machine between steps, or stands in the wait of the instruction at
`C`. -/
theorem Coherent.of_step {s t : State} (hc : Coherent s) (h : step s = .next t) : Coherent t := by
  by_cases hp : s.phase = .reset
  · rw [step_of_reset hp] at h
    cases h
    exact hc
  match hh : s.halted with
  | true =>
    rw [hc.step_of_halted hh] at h
    cases h
    exact hc
  | false =>
    rw [hc.step_eq_exec hh hp] at h
    match hd : dispatched s (fetchInstr s) with
    | some u =>
      have hw : t.mem.wf := exec_keeps_wf h hc.1
      rw [exec_of_dispatched hh hd] at h
      cases h
      exact coherent_of_ready hw ((finish_phase u).trans (hc.ready_of_dispatched hp hd))
    | none =>
      obtain ⟨p, hwait, e⟩ := exec_of_not_dispatched hd
      rw [e] at h
      cases h
      exact coherent_of_waitsIn hc.1 hh hwait

/-- Settles O47, from what a step can do in each phase. -/
theorem stepKeepsCoherent : Obligations.StepKeepsCoherent := fun _ _ => Coherent.of_step

/-- The start of a step is a step, or enters the wait of the instruction at `C`. -/
theorem Coherent.of_startStep {s t : State} (hc : Coherent s) (hp : s.phase = .ready) (hh : s.halted = false)
    (h : startStep s = .next t) : Coherent t := by
  rcases startStep_cases s with e | ⟨p, hwait, e⟩ <;> rw [e] at h
  · exact hc.of_step ((step_of_running hp hh).trans h)
  · cases h
    exact coherent_of_waitsIn hc.1 hh hwait

/-- Settles O48: a tick enters RESET with the reset values, starts a step, or leaves the machine between steps or as it was. -/
theorem tickKeepsCoherent : Obligations.TickKeepsCoherent := by
  intro p s t hc h
  rcases tick_cases h with ⟨-, m, hm, rfl⟩ | ⟨-, -, rfl⟩ | ⟨-, hp, hh, -, hs⟩ | ⟨-, -, rfl⟩ | ⟨-, b, -, rfl⟩ | ⟨-, rfl⟩
  · exact ⟨loadPort_keeps_wf hm hc.1, rfl, rfl, rfl, rfl, rfl⟩
  · exact coherent_of_ready hc.1 rfl
  · exact hc.of_startStep hp hh hs
  · exact coherent_of_ready (by simpa using hc.1) (commitIn_phase _ _ s)
  · exact coherent_of_ready hc.1 rfl
  · exact hc

/-! The canonical form of memory. -/

theorem Memory.wf_cons {p : Word × Word} {m : Memory} :
    Memory.wf (p :: m) ↔ (∀ q ∈ m, p.1 < q.1) ∧ p.2 ≠ Memory.unlisted ∧ m.wf := by
  simp only [Memory.wf_iff, List.pairwise_cons, List.forall_mem_cons]
  tauto

/-- An address below every entry reads as the unlisted word. -/
theorem Memory.read_of_below {m : Memory} {x : Word} (h : ∀ q ∈ m, x < q.1) : m.read x = Memory.unlisted :=
  Memory.read_of_absent m x fun q hq => (h q hq).ne'

/-- A canonical memory reads its first entry's address as a word that no memory above that address holds there. -/
theorem Memory.head_not_lt {p q : Word × Word} {m n : Memory} (hm : Memory.wf (p :: m)) (hn : Memory.wf (q :: n))
    (h : Memory.read (p :: m) p.1 = Memory.read (q :: n) p.1) : ¬p.1 < q.1 := by
  intro hlt
  obtain ⟨-, hp, -⟩ := Memory.wf_cons.1 hm
  obtain ⟨hbelow, -, -⟩ := Memory.wf_cons.1 hn
  have hread : Memory.read (q :: n) p.1 = Memory.unlisted :=
    Memory.read_of_below (List.forall_mem_cons.2 ⟨hlt, fun r hr => hlt.trans (hbelow r hr)⟩)
  rw [hread, Memory.read_cons, if_pos rfl] at h
  exact hp h

/-- Settles O50, by induction on both memories: their first entries have the same address, so the same word, and the rests read the same. -/
theorem canonicalMemoriesAreEqualData : Obligations.CanonicalMemoriesAreEqualData := by
  intro m
  induction m with
  | nil =>
    rintro (_ | ⟨q, n⟩) - hn h
    · rfl
    · obtain ⟨-, hq, -⟩ := Memory.wf_cons.1 hn
      have hread := h q.1
      rw [Memory.read_cons, if_pos rfl] at hread
      exact absurd hread.symm hq
  | cons p m ih =>
    rintro (_ | ⟨q, n⟩) hm hn h
    · obtain ⟨-, hp, -⟩ := Memory.wf_cons.1 hm
      have hread := h p.1
      rw [Memory.read_cons, if_pos rfl] at hread
      exact absurd hread hp
    · have haddr : p.1 = q.1 := le_antisymm (not_lt.1 (Memory.head_not_lt hn hm (h q.1).symm))
        (not_lt.1 (Memory.head_not_lt hm hn (h p.1)))
      obtain ⟨hpm, -, hm⟩ := Memory.wf_cons.1 hm
      obtain ⟨hqn, -, hn⟩ := Memory.wf_cons.1 hn
      have hword : p.2 = q.2 := by simpa [Memory.read_cons, haddr] using h p.1
      have hrest : m = n := ih n hm hn fun x => by
        by_cases hx : p.1 = x
        · rw [← hx, Memory.read_of_below hpm, Memory.read_of_below (haddr ▸ hqn)]
        · simpa [Memory.read_cons, hx, haddr ▸ hx] using h x
      rw [Prod.ext haddr hword, hrest]

end Sys2Proof.Machine
end

section
/-! PROOFS of the family other, the instructions and the step: IN and OUT with the host they meet (R109 to R116), what no instruction reads
(R22, R61, R87), the words that are written and fetched again (R49, R51), and runs of many steps (R84, R91). -/

namespace Sys2Proof.Machine

/-! The host's answers (R111). -/

theorem readByte_of_answers {ad : Adapter} {ans : InAnswer} {rest : List InAnswer} (h : ad.answers = ans :: rest) :
    ad.readByte = some (ans, Adapter.logAnswer ans { ad with answers := rest }) := by
  simp [Adapter.readByte, h]

theorem readByte_of_eof {ad : Adapter} (h : ad.answers = []) (ha : ad.afterwards = .eof) :
    ad.readByte = some (.eof, Adapter.logAnswer .eof ad) := by
  simp [Adapter.readByte, h, ha]

theorem requestIn_of_readByte {s : State} {ans : InAnswer} {ad : Adapter} (h : s.adapter.readByte = some (ans, ad)) :
    requestIn s = commitIn ans ad s := by
  rw [requestIn, h]

theorem requestIn_of_silent {s : State} (h : s.adapter.answers = []) (ha : s.adapter.afterwards = .silent) :
    requestIn s = setPhase .waitIn s := by
  rw [requestIn, readByte_none.2 ⟨h, ha⟩]

theorem offerOut_of_writeByte {s : State} {b : Byte} {ad : Adapter} (h : s.adapter.writeByte b = some ad) :
    offerOut b s = commitOut ad s := by
  rw [offerOut, h]

theorem offerOut_of_no_take {s : State} (h : s.adapter.takes = .atMost 0) (b : Byte) :
    offerOut b s = setPhase (.waitOut b) s := by
  rw [offerOut, writeByte_none.2 h]

/-! OUT (R112). -/

/-- Settles O15: the sentinel halts, and any other word is a byte that the host takes or leaves on offer. -/
theorem outInstruction : Obligations.OutInstruction := by
  refine ⟨rfl, fun s ha => ?halt, fun s ha htakes => ?byte, fun s ha htakes => ?wait, by decide⟩
  case halt =>
    exact ⟨haltStep s, exec_out_sentinel ha, haltStep_halted s, haltStep_haltPointers s, haltStep_a s, haltStep_hitEof s,
      fun x => by rw [haltStep_mem], haltStep_adapter s, haltStep_phase s, haltStep_haltAdvancesPointers s⟩
  case byte =>
    obtain ⟨ad, hw⟩ := Option.ne_none_iff_exists'.1 (mt (writeByte_none (b := lowByte s.a)).1 htakes)
    obtain ⟨htaken, hanswered, hanswers, hafter⟩ := writeByte_some hw
    exact ⟨commitOut ad s, by rw [exec_out_byte ha, offerOut_of_writeByte hw], lowByte_eq_mod s.a ▸ htaken, ⟨rfl, rfl⟩, rfl, rfl,
      rfl, fun _ => rfl, rfl, rfl, hanswered, hanswers, hafter⟩
  case wait => rw [exec_out_byte ha, offerOut_of_no_take htakes]

/-! IN (R113). -/

theorem exec_inp_of_readByte {s : State} {ans : InAnswer} {ad : Adapter} (h : s.adapter.readByte = some (ans, ad)) :
    exec .inp s = .next (commitIn ans ad s) := by
  rw [exec_inp, requestIn_of_readByte h]

/-- What an answered IN does beside the answer's writes: both pointers advance and the answer moves to the record. -/
theorem commitIn_frame {s : State} {ans : InAnswer} {ad : Adapter} (h : s.adapter.readByte = some (ans, ad)) :
    Advanced s.c s.d (commitIn ans ad s) ∧ (commitIn ans ad s).halted = s.halted ∧ SameMemory s (commitIn ans ad s) ∧
      (commitIn ans ad s).phase = .ready ∧ (commitIn ans ad s).haltAdvancesPointers = s.haltAdvancesPointers ∧
      (commitIn ans ad s).adapter.answers = ad.answers ∧
      (commitIn ans ad s).adapter.answered = s.adapter.answered ++ [ans] ∧
      (commitIn ans ad s).adapter.taken = s.adapter.taken := by
  obtain ⟨hanswered, htaken, -⟩ := readByte_some h
  simp [Advanced, SameMemory, incr, hanswered, htaken]

/-- An answer overwrites the accumulator, which it does not read (R61, R113). -/
theorem commitIn_setA (ans : InAnswer) (ad : Adapter) (v : Word) (s : State) :
    commitIn ans ad (setA v s) = commitIn ans ad s := by
  cases ans <;> rfl

/-- A byte is not the sentinel (R113). -/
theorem zextByte_ne_sentinel (b : Byte) : zextByte b ≠ sentinel := by
  intro h
  have hval : b.toNat = 59048 := congrArg Fin.val h
  have hb := b.isLt
  omega

/-- Settles O16: the answer at the head of the queue, or the end of input after it, is committed; a silent host leaves the wait. -/
theorem inInstruction : Obligations.InInstruction := by
  refine ⟨rfl, fun s b rest hq => ?byte, fun s rest hq => ?eof, fun s hq ha => ?wait, fun s v hr => ?accumulator, zextByte_ne_sentinel⟩
  case byte =>
    obtain ⟨ad, hread, rfl⟩ : ∃ ad, s.adapter.readByte = some (.byte b, ad) ∧ ad.answers = rest :=
      ⟨_, readByte_of_answers hq, rfl⟩
    exact ⟨_, exec_inp_of_readByte hread, rfl, rfl, commitIn_frame hread⟩
  case eof =>
    obtain ⟨ad, hread, rfl⟩ : ∃ ad, s.adapter.readByte = some (.eof, ad) ∧ ad.answers = rest := by
      rcases hq with hq | ⟨hq, rfl, ha⟩
      · exact ⟨_, readByte_of_answers hq, rfl⟩
      · exact ⟨_, readByte_of_eof hq ha, hq⟩
    exact ⟨_, exec_inp_of_readByte hread, rfl, rfl, commitIn_frame hread⟩
  case wait => rw [exec_inp, requestIn_of_silent hq ha]
  case accumulator =>
    obtain ⟨⟨ans, ad⟩, hread⟩ := Option.ne_none_iff_exists'.1 hr
    rw [exec_inp_of_readByte hread, exec_inp_of_readByte (s := setA v s) hread, commitIn_setA]

/-! The accumulator (R61). -/

/-- The halting step written as one update (R87). -/
theorem haltStep_eq (s : State) : haltStep s =
    { s with
      halted := true
      c := if s.haltAdvancesPointers then incr s.c else s.c
      d := if s.haltAdvancesPointers then incr s.d else s.d } := by
  by_cases h : s.haltAdvancesPointers = true
  · have hs : (setHalted s).haltAdvancesPointers = true := h
    rw [haltStep, advanceOnHalt, if_pos hs, if_pos h, if_pos h]
    rfl
  · have hs : ¬(setHalted s).haltAdvancesPointers = true := h
    rw [haltStep, advanceOnHalt, if_neg hs, if_neg h, if_neg h]
    rfl

/-- An input request does not look at the accumulator (R61). -/
theorem requestIn_setA (v : Word) (s : State) : setA (requestIn s).a (requestIn (setA v s)) = requestIn s := by
  rcases requestIn_cases s with ⟨ans, ad, hr, e⟩ | ⟨hr, e⟩
  · rw [e, requestIn_of_readByte (s := setA v s) hr, commitIn_setA]
    rfl
  · obtain ⟨hq, ha⟩ := readByte_none.1 hr
    rw [e, requestIn_of_silent (s := setA v s) hq ha]
    rfl

/-- Settles O20: no meaning but those of SUB and OUT names `A` on its right-hand side. -/
theorem accumulatorReadBySubAndOutOnly : Obligations.AccumulatorReadBySubAndOutOnly := by
  intro i s t v hsub hout h
  cases i
  case sub => exact absurd rfl hsub
  case out => exact absurd rfl hout
  case inp => cases h; exact ⟨_, exec_inp _, requestIn_setA v s⟩
  case halt => cases h; exact ⟨_, exec_halt _, by rw [haltStep_eq, haltStep_eq]; rfl⟩
  all_goals cases h; exact ⟨_, rfl, rfl⟩

/-! The instruction that a step runs (R84, R95). -/

/-- Settles O22: the fetch decodes the word at `C`. -/
theorem stepRunsDecodedInstruction : Obligations.StepRunsDecodedInstruction := by
  rintro s i hp hh rfl
  exact step_of_running hp hh

/-- Settles O23: a coherent wait stands at the instruction that waits. -/
theorem waitingStepRunsTheSameInstruction : Obligations.WaitingStepRunsTheSameInstruction :=
  ⟨fun _ => Coherent.step_eq_exec, fun _ => step_of_reset⟩

/-! The parameter (R87). -/

/-- The machine with another value of `haltAdvancesPointers`. -/
def setParameter (flag : Bool) (s : State) : State := { s with haltAdvancesPointers := flag }

theorem commitIn_setParameter (flag : Bool) (ans : InAnswer) (ad : Adapter) (s : State) :
    commitIn ans ad (setParameter flag s) = setParameter flag (commitIn ans ad s) := by
  cases ans <;> rfl

theorem requestIn_setParameter (flag : Bool) (s : State) :
    requestIn (setParameter flag s) = setParameter flag (requestIn s) := by
  rcases requestIn_cases s with ⟨ans, ad, hr, e⟩ | ⟨hr, e⟩
  · rw [e, requestIn_of_readByte (s := setParameter flag s) hr, commitIn_setParameter]
  · obtain ⟨hq, ha⟩ := readByte_none.1 hr
    rw [e, requestIn_of_silent (s := setParameter flag s) hq ha]
    rfl

theorem offerOut_setParameter (flag : Bool) (b : Byte) (s : State) :
    offerOut b (setParameter flag s) = setParameter flag (offerOut b s) := by
  rcases offerOut_cases b s with ⟨ad, hw, e⟩ | ⟨hw, e⟩
  · rw [e, offerOut_of_writeByte (s := setParameter flag s) hw]
    rfl
  · rw [e, offerOut_of_no_take (s := setParameter flag s) (writeByte_none.1 hw)]
    rfl

theorem exec_of_halts {i : Instr} {s : State} (h : Halts i s) : exec i s = .next (haltStep s) := by
  rcases h with rfl | ⟨rfl, ha⟩
  · exact exec_halt s
  · exact exec_out_sentinel ha

/-- Only a halting instruction looks at the parameter (R87). -/
theorem exec_setParameter {i : Instr} {s t : State} (flag : Bool) (hi : ¬Halts i s) (h : exec i s = .next t) :
    exec i (setParameter flag s) = .next (setParameter flag t) := by
  cases i
  case halt => exact absurd (.inl rfl) hi
  case out =>
    have ha : s.a ≠ sentinel := fun ha => hi (.inr ⟨rfl, ha⟩)
    rw [exec_out_byte ha] at h
    cases h
    rw [exec_out_byte (s := setParameter flag s) ha, ← offerOut_setParameter]
    rfl
  case inp => cases h; rw [exec_inp, requestIn_setParameter]
  all_goals cases h; rfl

/-- The two states agree but for the parameter and, once halted, the pointers (R87). -/
def AgreeButForHalt (t t' : State) : Prop :=
  { t' with haltAdvancesPointers := t.haltAdvancesPointers, c := t.c, d := t.d } = t ∧
    (t.halted = false → t'.c = t.c ∧ t'.d = t.d)

theorem agreeButForHalt_setParameter (flag : Bool) (t : State) : AgreeButForHalt t (setParameter flag t) :=
  ⟨rfl, fun _ => ⟨rfl, rfl⟩⟩

theorem agreeButForHalt_haltStep (flag : Bool) (s : State) :
    AgreeButForHalt (haltStep s) (haltStep (setParameter flag s)) :=
  ⟨by rw [haltStep_eq, haltStep_eq]; rfl, fun h => by simp at h⟩

/-- Two machines that differ in the parameter alone take the same step, but for the pointers of a halting one. -/
theorem step_setParameter {s t : State} (flag : Bool) (h : step s = .next t) :
    ∃ t', step (setParameter flag s) = .next t' ∧ AgreeButForHalt t t' := by
  rcases step_cases h with ⟨hp, hh, he⟩ | ⟨hp, rfl⟩ | ⟨b, hp, rfl⟩ | ⟨hp | ⟨hp, hh⟩, rfl⟩
  · have hstep : step (setParameter flag s) = exec (fetchInstr s) (setParameter flag s) := step_of_running hp hh
    rw [hstep]
    by_cases hi : Halts (fetchInstr s) s
    · rw [exec_of_halts hi] at he
      cases he
      exact ⟨_, exec_of_halts (s := setParameter flag s) hi, agreeButForHalt_haltStep flag s⟩
    · exact ⟨_, exec_setParameter flag hi he, agreeButForHalt_setParameter flag t⟩
  · exact ⟨_, step_of_waitIn (s := setParameter flag s) hp, requestIn_setParameter flag s ▸ agreeButForHalt_setParameter flag _⟩
  · exact ⟨_, step_of_waitOut (s := setParameter flag s) hp, offerOut_setParameter flag b s ▸ agreeButForHalt_setParameter flag _⟩
  · exact ⟨_, step_of_reset (s := setParameter flag t) hp, agreeButForHalt_setParameter flag t⟩
  · exact ⟨_, step_of_halted (s := setParameter flag t) hp hh, agreeButForHalt_setParameter flag t⟩

/-- Settles O27: the parameter shows in the halting step alone, and there in the pointers alone. -/
theorem haltingStepAndThePointers : Obligations.HaltingStepAndThePointers := by
  refine ⟨rfl, fun s hp hh hi => ?halting, fun s t flag _ h => step_setParameter flag h, fun s hc hh c d => ?halted⟩
  case halting =>
    have hpointers := haltStep_haltPointers s
    refine ⟨_, (step_of_running hp hh).trans (exec_of_halts hi), haltStep_halted s, fun hflag => ?_, fun hflag => ?_⟩
    · simpa only [HaltPointers, hflag, if_true] using hpointers
    · simpa only [HaltPointers, hflag, Bool.false_eq_true, if_false] using hpointers
  case halted => exact step_of_halted (s := { s with c := c, d := d }) (hc.ready_of_halted hh) hh

/-! Memory (R49, R51). -/

/-- ROT and SUB store in the cell at `D` what they leave in `A` (R101). -/
theorem exec_stores {i : Instr} {s t : State} (hi : i = .rot ∨ i = .sub) (h : exec i s = .next t) :
    t.mem.read s.d = t.a := by
  rcases hi with rfl | rfl
  · rw [exec_rot_read h, exec_rot_a h]
  · exact exec_sub_read h

/-- A word that an instruction changes is the one at `D`, and ROT or SUB put its result there (R51). -/
theorem exec_changed_word {i : Instr} {s t : State} {x : Word} (h : exec i s = .next t)
    (hx : t.mem.read x ≠ s.mem.read x) : (i = .rot ∨ i = .sub) ∧ x = s.d ∧ t.mem.read x = t.a := by
  rcases exec_mem h with e | ⟨hi, r, e⟩
  · exact absurd (by rw [e]) hx
  · have hd : x = s.d := by_contra fun hne => hx (by rw [e, Memory.read_write_other _ _ hne])
    exact ⟨hi, hd, hd ▸ exec_stores hi h⟩

/-- A word that a step changes was written by the instruction at `C`, ROT or SUB (R51). -/
theorem step_changed_word {s t : State} {x : Word} (h : step s = .next t) (hx : t.mem.read x ≠ s.mem.read x) :
    s.phase = .ready ∧ s.halted = false ∧ (fetchInstr s = .rot ∨ fetchInstr s = .sub) ∧ x = s.d ∧ t.mem.read x = t.a := by
  rcases step_cases h with ⟨hp, hh, he⟩ | ⟨-, rfl⟩ | ⟨b, -, rfl⟩ | ⟨-, rfl⟩
  · exact ⟨hp, hh, exec_changed_word he hx⟩
  · simp at hx
  · simp at hx
  · simp at hx

/-- A word that the load port changes is the one it was given, at the address it was given (R137). -/
theorem loadPort_changed_word {p : PortsIn} {m m' : Memory} {x : Word} (h : loadPort p m = some m')
    (hx : m'.read x ≠ m.read x) :
    p.loadEn = true ∧ ofStored p.loadAddr = some x ∧ ofStored p.loadData = some (m'.read x) := by
  rcases loadPort_some h with ⟨-, rfl⟩ | ⟨hen, y, v, hy, hv, rfl⟩
  · exact absurd rfl hx
  · have hxy : x = y := by_contra fun hne => hx (Memory.read_write_other m v hne)
    rw [hxy, Memory.read_write_same]
    exact ⟨hen, hy, hv⟩

/-- Settles O28: of the things a step or a tick can do, only ROT, SUB and the load port write memory. -/
theorem memoryChangesInTwoWays : Obligations.MemoryChangesInTwoWays := by
  refine ⟨fun s t x => step_changed_word, fun p s t x h hx => ?tick, fun p s t hr hen h => ?reset⟩
  case tick =>
    rcases tick_cases h with ⟨hr, m, hm, rfl⟩ | ⟨-, -, rfl⟩ | ⟨hr, hp, hh, hst, hs⟩ | ⟨-, -, rfl⟩ | ⟨-, b, -, rfl⟩ | ⟨-, rfl⟩
    · exact .inl ⟨hr, loadPort_changed_word hm hx⟩
    · simp at hx
    · rcases startStep_cases s with e | ⟨q, -, e⟩ <;> rw [e] at hs
      · exact .inr ⟨hr, hst, hp, hh, exec_changed_word hs hx⟩
      · cases hs
        simp at hx
    · simp at hx
    · simp at hx
    · simp at hx
  case reset =>
    rw [tick_of_rst hr, resetTick_of_load (loadPort_of_no_load hen s.mem)] at h
    cases h
    rfl

/-- A word that stands at `C` is what the next step runs (R49, R84). -/
theorem fetch_of_read {u : State} {x w : Word} (hw : u.mem.read x = w) (hc : u.c = x) :
    instrWord u = w ∧ (u.phase = .ready → u.halted = false → step u = exec (decode w) u) := by
  have hinstr : instrWord u = w := by rw [instrWord, hc, hw]
  exact ⟨hinstr, fun hp hh => by rw [step_of_running hp hh, fetchInstr, hinstr]⟩

theorem data_of_read {u : State} {x w : Word} (hw : u.mem.read x = w) (hd : u.d = x) : data u = w := by
  rw [data, hd, hw]

theorem steps_succ {s t : State} (h : step s = .next t) (k : Nat) : steps (k + 1) s = steps k t := by
  rw [steps, h]

/-- A word stays through any number of steps in which no ROT or SUB writes its address (R49, R51). -/
theorem read_steps_of_unwritten {k : Nat} {x : Word} {s t : State} (h : steps k s = .next t)
    (hx : ∀ (j : Nat) (v : State), j < k → steps j s = .next v → v.phase = .ready → v.halted = false →
      fetchInstr v = .rot ∨ fetchInstr v = .sub → v.d ≠ x) : t.mem.read x = s.mem.read x := by
  induction k generalizing s with
  | zero => cases h; rfl
  | succ k ih =>
    obtain ⟨s', hs⟩ := step_total s
    rw [steps_succ hs] at h
    have hrest : t.mem.read x = s'.mem.read x :=
      ih h fun j v hj hv => hx (j + 1) v (by omega) ((steps_succ hs j).trans hv)
    rw [hrest]
    by_contra hne
    obtain ⟨hp, hh, hi, hd, -⟩ := step_changed_word hs hne
    exact hx 0 s (by omega) rfl hp hh hi hd.symm

/-- Settles O29: the stored word stays until its address is written again, and every fetch reads memory as it stands. -/
theorem writtenWordIsFetchedNext : Obligations.WrittenWordIsFetchedNext := by
  intro s t hp hh hi h
  have hword : t.mem.read s.d = t.a := exec_stores hi ((step_of_running hp hh).symm.trans h)
  refine ⟨hword, fun u hu => data_of_read hu, fun u hu => fetch_of_read hu, fun k u hk hunwritten => ?_⟩
  have hu : u.mem.read s.d = t.a := (read_steps_of_unwritten hk hunwritten).trans hword
  exact ⟨hu, data_of_read hu, fetch_of_read hu⟩

/-! The end-of-input flag (R22, R115). -/

/-- An input request leaves the flag, or is answered with the end of input and sets it (R113). -/
theorem requestIn_hitEof (s : State) : (requestIn s).hitEof = s.hitEof ∨
    ∃ ad, s.adapter.readByte = some (.eof, ad) ∧ requestIn s = commitIn .eof ad s := by
  rcases requestIn_cases s with ⟨ans, ad, hr, e⟩ | ⟨-, e⟩
  · cases ans
    case byte b => exact .inl (by rw [e, commitIn_byte_hitEof])
    case eof => exact .inr ⟨ad, hr, e⟩
  · exact .inl (by rw [e, setPhase_hitEof])

/-- No instruction but IN writes the flag (R22). -/
theorem exec_hitEof {i : Instr} {s t : State} (hi : i ≠ .inp) (h : exec i s = .next t) : t.hitEof = s.hitEof := by
  cases i
  case inp => exact absurd rfl hi
  case out =>
    by_cases ha : s.a = sentinel
    · rw [exec_out_sentinel ha] at h; cases h; simp
    · rw [exec_out_byte ha] at h; cases h; simp
  all_goals cases h; simp

/-- A step leaves the flag, or is an IN answered with the end of input (R22, R113). -/
theorem step_hitEof {s t : State} (h : step s = .next t) : t.hitEof = s.hitEof ∨
    ((s.phase = .ready ∧ s.halted = false ∧ fetchInstr s = .inp ∨ s.phase = .waitIn) ∧
      ∃ ad, s.adapter.readByte = some (.eof, ad) ∧ t = commitIn .eof ad s) := by
  rcases step_cases h with ⟨hp, hh, he⟩ | ⟨hp, rfl⟩ | ⟨b, -, rfl⟩ | ⟨-, rfl⟩
  · by_cases hi : fetchInstr s = .inp
    · rw [hi, exec_inp] at he
      cases he
      exact (requestIn_hitEof s).imp_right fun hs => ⟨.inl ⟨hp, hh, hi⟩, hs⟩
    · exact .inl (exec_hitEof hi he)
  · exact (requestIn_hitEof s).imp_right fun hs => ⟨.inr hp, hs⟩
  · exact .inl (offerOut_hitEof b s)
  · exact .inl rfl

/-- In a coherent wait for input the instruction at `C` is IN (R95). -/
theorem Coherent.inp_of_waitIn {s : State} (hc : Coherent s) (hp : s.phase = .waitIn) :
    s.halted = false ∧ fetchInstr s = .inp := by
  obtain ⟨-, hc⟩ := hc
  simpa only [hp] using hc

/-- The machine with another value of the flag. -/
def putHitEof (flag : Bool) (s : State) : State := { s with hitEof := flag }

/-- An input request does not look at the flag (R115). -/
theorem requestIn_putHitEof (flag : Bool) (s : State) :
    putHitEof (requestIn s).hitEof (requestIn (putHitEof flag s)) = requestIn s := by
  rcases requestIn_cases s with ⟨ans, ad, hr, e⟩ | ⟨hr, e⟩
  · rw [e, requestIn_of_readByte (s := putHitEof flag s) hr]
    cases ans <;> rfl
  · obtain ⟨hq, ha⟩ := readByte_none.1 hr
    rw [e, requestIn_of_silent (s := putHitEof flag s) hq ha]
    rfl

/-- An output offer does not look at the flag (R22). -/
theorem offerOut_putHitEof (flag : Bool) (b : Byte) (s : State) :
    putHitEof (offerOut b s).hitEof (offerOut b (putHitEof flag s)) = offerOut b s := by
  rcases offerOut_cases b s with ⟨ad, hw, e⟩ | ⟨hw, e⟩
  · rw [e, offerOut_of_writeByte (s := putHitEof flag s) hw]
    rfl
  · rw [e, offerOut_of_no_take (s := putHitEof flag s) (writeByte_none.1 hw)]
    rfl

/-- No instruction reads the flag (R22). -/
theorem exec_putHitEof {i : Instr} {s t : State} (flag : Bool) (h : exec i s = .next t) :
    ∃ t', exec i (putHitEof flag s) = .next t' ∧ putHitEof t.hitEof t' = t := by
  cases i
  case out =>
    by_cases ha : s.a = sentinel
    · rw [exec_out_sentinel ha] at h
      cases h
      exact ⟨_, exec_out_sentinel (s := putHitEof flag s) ha, by rw [haltStep_eq, haltStep_eq]; rfl⟩
    · rw [exec_out_byte ha] at h
      cases h
      exact ⟨_, exec_out_byte (s := putHitEof flag s) ha, offerOut_putHitEof flag _ s⟩
  case inp => cases h; exact ⟨_, exec_inp _, requestIn_putHitEof flag s⟩
  case halt => cases h; exact ⟨_, exec_halt _, by rw [haltStep_eq, haltStep_eq]; rfl⟩
  all_goals cases h; exact ⟨_, rfl, rfl⟩

/-- No step reads the flag (R22). -/
theorem step_putHitEof {s t : State} (flag : Bool) (h : step s = .next t) :
    ∃ t', step (putHitEof flag s) = .next t' ∧ putHitEof t.hitEof t' = t := by
  rcases step_cases h with ⟨hp, hh, he⟩ | ⟨hp, rfl⟩ | ⟨b, hp, rfl⟩ | ⟨hp | ⟨hp, hh⟩, rfl⟩
  · have hstep : step (putHitEof flag s) = exec (fetchInstr s) (putHitEof flag s) := step_of_running hp hh
    rw [hstep]
    exact exec_putHitEof flag he
  · exact ⟨_, step_of_waitIn (s := putHitEof flag s) hp, requestIn_putHitEof flag s⟩
  · exact ⟨_, step_of_waitOut (s := putHitEof flag s) hp, offerOut_putHitEof flag b s⟩
  · exact ⟨_, step_of_reset (s := putHitEof flag t) hp, rfl⟩
  · exact ⟨_, step_of_halted (s := putHitEof flag t) hp hh, rfl⟩

/-- An IN that the host answers is the answer's commit (R113). -/
theorem step_of_answered_inp {s : State} {ans : InAnswer} {ad : Adapter} (hp : s.phase = .ready) (hh : s.halted = false)
    (hi : fetchInstr s = .inp) (hr : s.adapter.readByte = some (ans, ad)) : step s = .next (commitIn ans ad s) := by
  rw [step_of_running hp hh, hi, exec_inp_of_readByte hr]

/-- Settles O30: the end of input is the one answer that writes the flag, and no step looks at it. -/
theorem hitEofIsStickyAndNeverRead : Obligations.HitEofIsStickyAndNeverRead := by
  refine ⟨rfl, fun s t h hs => ?sticky, fun s t hc h hs ht => ?set, fun s t flag h => step_putHitEof flag h,
    fun s ad hp hh hi hr => ⟨_, step_of_answered_inp hp hh hi hr, rfl, rfl⟩,
    fun s b ad hp hh hi hs hr => ⟨_, step_of_answered_inp hp hh hi hr, rfl, hs⟩,
    fun ad hq ha => ⟨_, readByte_of_eof hq ha, hq, ha⟩, fun _ _ _ => rfl⟩
  case sticky =>
    rcases step_hitEof h with e | ⟨-, ad, -, rfl⟩
    · rw [e, hs]
    · rfl
  case set =>
    rcases step_hitEof h with e | ⟨hwhere, ad, hr, rfl⟩
    · simp [e, hs] at ht
    · obtain ⟨hh, hi⟩ : s.halted = false ∧ fetchInstr s = .inp :=
        hwhere.elim (fun ⟨_, hrun⟩ => hrun) hc.inp_of_waitIn
      obtain ⟨hanswered, -⟩ := readByte_some hr
      exact ⟨hh, hi, hanswered⟩

/-! Runs of many steps (R84, R91). -/

/-- A state that a step leaves as it is stays for any number of steps. -/
theorem steps_of_fixed {s : State} (h : step s = .next s) (k : Nat) : steps k s = .next s := by
  induction k with
  | zero => rfl
  | succ k ih => rw [steps_succ h, ih]

/-- Settles O32: the first step enters the wait, which every further step leaves as it is. -/
theorem silentHostHangsTheCore : Obligations.SilentHostHangsTheCore := by
  refine ⟨fun k s hp hh hi hq ha => ?silent, fun k s hp hh hi ha htakes => ?deaf⟩
  case silent =>
    have henter : step s = .next (setPhase .waitIn s) := by
      rw [step_of_running hp hh, hi, exec_inp, requestIn_of_silent hq ha]
    have hstay : step (setPhase .waitIn s) = .next (setPhase .waitIn s) := by
      rw [step_of_waitIn (setPhase_phase _ s), requestIn_of_silent (s := setPhase .waitIn s) hq ha]
      rfl
    rw [steps_succ henter, steps_of_fixed hstay]
  case deaf =>
    have henter : step s = .next (setPhase (.waitOut (lowByte s.a)) s) := by
      rw [step_of_running hp hh, hi, exec_out_byte ha, offerOut_of_no_take htakes]
    have hstay : step (setPhase (.waitOut (lowByte s.a)) s) = .next (setPhase (.waitOut (lowByte s.a)) s) := by
      rw [step_of_waitOut (setPhase_phase _ s), offerOut_of_no_take (s := setPhase (.waitOut (lowByte s.a)) s) htakes]
      rfl
    rw [steps_succ henter, steps_of_fixed hstay]

theorem runFor_of_halted {s t : State} (h : step s = .next t) (ht : t.halted = true) (fuel : Nat) :
    runFor (fuel + 1) s = .halted t := by
  simp [runFor, h, reportsHalted, ht]

theorem runFor_of_running {s t : State} (h : step s = .next t) (ht : t.halted = false) (fuel : Nat) :
    runFor (fuel + 1) s = runFor fuel t := by
  simp [runFor, h, reportsHalted, ht]

/-- A run that ends has made as many steps as it took to halt (R91). -/
theorem halted_of_runFor {fuel : Nat} {s t : State} (h : runFor fuel s = .halted t) :
    t.halted = true ∧ ∃ k, k + 1 ≤ fuel ∧ steps (k + 1) s = .next t := by
  induction fuel generalizing s with
  | zero => cases h
  | succ fuel ih =>
    obtain ⟨u, hu⟩ := step_total s
    match hh : u.halted with
    | true =>
      rw [runFor_of_halted hu hh] at h
      cases h
      exact ⟨hh, 0, by omega, steps_succ hu 0⟩
    | false =>
      rw [runFor_of_running hu hh] at h
      obtain ⟨ht, k, hk, hsteps⟩ := ih h
      exact ⟨ht, k + 1, by omega, (steps_succ hu (k + 1)).trans hsteps⟩

/-- More fuel gives the same end. -/
theorem runFor_add {fuel : Nat} {s t : State} (h : runFor fuel s = .halted t) (more : Nat) :
    runFor (fuel + more) s = .halted t := by
  induction fuel generalizing s with
  | zero => cases h
  | succ fuel ih =>
    obtain ⟨u, hu⟩ := step_total s
    rw [Nat.succ_add]
    match hh : u.halted with
    | true => rwa [runFor_of_halted hu hh] at h ⊢
    | false =>
      rw [runFor_of_running hu hh] at h ⊢
      exact ih h

/-- A run ends halted or out of fuel: no step faults or is refused (R120). -/
theorem runFor_cases (fuel : Nat) (s : State) : (∃ t, runFor fuel s = .halted t) ∨ runFor fuel s = .outOfFuel := by
  induction fuel generalizing s with
  | zero => exact .inr rfl
  | succ fuel ih =>
    obtain ⟨u, hu⟩ := step_total s
    match hh : u.halted with
    | true => exact .inl ⟨u, runFor_of_halted hu hh fuel⟩
    | false =>
      rw [runFor_of_running hu hh]
      exact ih u

/-- A run that is out of fuel has not halted so far. -/
theorem running_of_outOfFuel {fuel k : Nat} {s t : State} (h : runFor fuel s = .outOfFuel) (hk : k + 1 ≤ fuel)
    (hsteps : steps (k + 1) s = .next t) : t.halted = false := by
  induction fuel generalizing s k with
  | zero => omega
  | succ fuel ih =>
    obtain ⟨u, hu⟩ := step_total s
    match hh : u.halted with
    | true =>
      rw [runFor_of_halted hu hh] at h
      cases h
    | false =>
      rw [runFor_of_running hu hh] at h
      rw [steps_succ hu] at hsteps
      match k with
      | 0 => cases hsteps; exact hh
      | k + 1 => exact ih h (by omega) hsteps

/-- Settles O33: each clause is an induction on the fuel, whose next step halts the run or leaves it to the rest of the fuel. -/
theorem runEndsOnlyWhenHalted : Obligations.RunEndsOnlyWhenHalted :=
  ⟨fun _ _ _ => halted_of_runFor, fun _ more _ _ h => runFor_add h more, runFor_cases,
   fun _ _ h _ _ => running_of_outOfFuel h⟩

/-- Settles O35, by induction on the number of steps: each is the pseudocode's, and leaves a state between steps whose host answers. -/
theorem runRefinesPseudocode : Obligations.RunRefinesPseudocode := by
  obtain ⟨hrefines, hcompletes⟩ := stepRefinesPseudocode
  intro k
  induction k with
  | zero => exact fun s hp hs => ⟨s, rfl, rfl, hp, hs⟩
  | succ k ih =>
    intro s hp hs
    obtain ⟨t, ht, htp, hta, hparam⟩ := hcompletes s hp hs
    obtain ⟨hview, -⟩ := hrefines s t hp ht htp
    obtain ⟨u, hu, huview, hup, hua⟩ := ih t htp hta
    refine ⟨u, (steps_succ ht k).trans hu, ?_, hup, hua⟩
    rw [huview, hview, hparam, Function.iterate_succ_apply]

end Sys2Proof.Machine
end

section
/-! PROOFS of the family other, the FSM at its ports: reset and the load port (R135 to R138), the transition table (R95), the handshakes
(R109, R110), the observe port (R29), and that ticks implement the step. -/

namespace Sys2Proof.Machine

/-! The FSM's states (R94). -/

theorem fsmState_of_ready {s : State} (h : s.phase = .ready) : fsmState s = if s.halted then .halted else .idle := by
  simp [fsmState, h]

theorem fsmState_eq_idle_iff {s : State} : fsmState s = .idle ↔ s.phase = .ready ∧ s.halted = false := by
  unfold fsmState
  split <;> simp_all

theorem fsmState_eq_halted_iff {s : State} : fsmState s = .halted ↔ s.phase = .ready ∧ s.halted = true := by
  unfold fsmState
  split <;> simp_all

theorem fsmState_eq_reset_iff {s : State} : fsmState s = .reset ↔ s.phase = .reset := by
  match hp : s.phase with
  | .ready => rw [fsmState_of_ready hp]; split <;> simp
  | .reset | .waitIn | .waitOut b => simp [fsmState, hp]

/-- The machine is busy exactly while it is not between steps (R94). -/
theorem busy_eq_false_iff {s : State} : busy s = false ↔ s.phase = .ready := by
  match hp : s.phase, hh : s.halted with
  | .reset, _ | .waitIn, _ | .waitOut b, _ => simp [busy, fsmState, hp]
  | .ready, true | .ready, false => simp [busy, fsmState, hp, hh]

/-- Settles O36: booting puts an image into the reset state, whose fields are these values. -/
theorem resetValues : Obligations.ResetValues :=
  ⟨fun _ => ⟨rfl, rfl, rfl, rfl, rfl, fun _ => rfl, rfl, fun _ _ => ⟨rfl, rfl, rfl⟩⟩, rfl⟩

/-! Reset and the load port (R135 to R138). -/

theorem tick_of_rst_no_load {p : PortsIn} {s : State} (hr : p.rst = true) (hen : p.loadEn = false) :
    tick p s = .next (resetCore s) := by
  rw [tick_of_rst hr, resetTick_of_load (loadPort_of_no_load hen s.mem)]
  rfl

theorem tick_of_rst_load {p : PortsIn} {s : State} {x v : Word} (hr : p.rst = true) (hen : p.loadEn = true)
    (hx : ofStored p.loadAddr = some x) (hv : ofStored p.loadData = some v) :
    tick p s = .next (setMem (s.mem.write x v) (resetCore s)) := by
  rw [tick_of_rst hr, resetTick_of_load (loadPort_of_load hen hx hv s.mem)]

/-- Settles O37: a reset cycle without a load sets registers, flags and phase from any state, and keeps the rest. -/
theorem resetFromAnyState : Obligations.ResetFromAnyState := fun _ s hr hen =>
  ⟨resetCore s, tick_of_rst_no_load hr hen, rfl, rfl, rfl, rfl, rfl, rfl, rfl, rfl, rfl, fun _ _ => ⟨rfl, rfl, rfl⟩⟩

/-- Settles O38: under reset the load port writes one word or refuses the load; without reset no transition reads it. -/
theorem loadPortWritesUnderReset : Obligations.LoadPortWritesUnderReset := by
  refine ⟨fun p s x v hr hen hx hv => ?writes, fun p s hr hen hrange => ?refused, fun p s en addr word hr => ?ignored⟩
  case writes =>
    exact ⟨_, tick_of_rst_load hr hen hx hv, Memory.read_write_same _ _ _, fun _ hy => Memory.read_write_other _ _ hy,
      rfl, rfl, rfl, rfl, rfl, rfl, rfl, rfl⟩
  case refused =>
    have hnone : loadPort p s.mem = none :=
      loadPort_of_no_word hen (hrange.imp ofStored_eq_none_iff.2 ofStored_eq_none_iff.2) s.mem
    rw [tick_of_rst hr, resetTick, hnone]
  case ignored =>
    rw [tick, tick, if_neg (Bool.eq_false_iff.1 hr), if_neg (Bool.eq_false_iff.1 hr)]
    rfl

/-! The start of a step (R95, R97). -/

theorem PortsIn.start_iff {p : PortsIn} : p.start = true ↔ p.stepReq = true ∨ p.run = true := by
  simp [PortsIn.start]

theorem PortsIn.not_start {p : PortsIn} (hreq : p.stepReq = false) (hrun : p.run = false) : p.start = false := by
  rw [PortsIn.start, hreq, hrun]
  rfl

theorem tick_of_start {p : PortsIn} {s : State} (hr : p.rst = false) (hp : s.phase = .ready) (hh : s.halted = false)
    (hs : p.start = true) : tick p s = startStep s := by
  rw [tick_of_idle hr hp hh, if_pos hs]

theorem tick_of_no_start {p : PortsIn} {s : State} (hr : p.rst = false) (hp : s.phase = .ready) (hh : s.halted = false)
    (hs : p.start = false) : tick p s = .next s := by
  rw [tick_of_idle hr hp hh, if_neg (Bool.eq_false_iff.1 hs)]

/-- Under reset registers and flags hold their reset values (R135). -/
theorem Coherent.values_of_reset {s : State} (hc : Coherent s) (hp : s.phase = .reset) :
    s.a = 0 ∧ s.c = 0 ∧ s.d = 0 ∧ s.halted = false ∧ s.hitEof = false := by
  obtain ⟨-, hc⟩ := hc
  simpa only [hp] using hc

/-- Settles O39: the release of reset changes the phase alone, and both pointers stand at 0. -/
theorem firstStepAfterReset : Obligations.FirstStepAfterReset := by
  intro p s hc hp hr
  obtain ⟨-, hcode, hdata, hh, -⟩ := hc.values_of_reset hp
  refine ⟨_, tick_of_reset hr hp, rfl, fsmState_eq_idle_iff.2 ⟨rfl, hh⟩, congrArg s.mem.read hcode, congrArg s.mem.read hdata,
    fun q hq hstart => tick_of_start hq rfl hh (PortsIn.start_iff.2 hstart.symm),
    fun q hq hrun hreq => tick_of_no_start hq rfl hh (PortsIn.not_start hreq hrun)⟩

theorem ticks_cons {p : PortsIn} {s t : State} (h : tick p s = .next t) (ps : List PortsIn) :
    ticks (p :: ps) s = ticks ps t := by
  rw [ticks, h]

/-- A cycle of the load port with a word of the image (R137). -/
theorem tick_loadTick (cell : Word × Word) (s : State) :
    tick (loadTick cell) s = .next (setMem (s.mem.write cell.1 cell.2) (resetCore s)) :=
  tick_of_rst_load rfl rfl (ofStored_storedForm cell.1) (ofStored_storedForm cell.2)

/-- The loads of a list, one cycle each, leave the machine under reset with the words written first to last (R137). -/
theorem ticks_loadTicks (cells : List (Word × Word)) (m : Memory) (s : State) (ps : List PortsIn) :
    ticks (cells.map loadTick ++ ps) (setMem m (resetCore s)) = ticks ps (setMem (writeAll m cells) (resetCore s)) := by
  induction cells generalizing m with
  | nil => rfl
  | cons cell cells ih =>
    rw [List.map_cons, List.cons_append, ticks_cons (tick_loadTick cell _)]
    exact ih (m.write cell.1 cell.2)

/-- Settles O40, by induction on the list of loads. -/
theorem bootThroughTheLoadPort : Obligations.BootThroughTheLoadPort := by
  intro cells s
  rw [List.cons_append, ticks_cons (t := setMem s.mem (resetCore s)) (tick_of_rst_no_load rfl rfl), ticks_loadTicks,
    ticks_cons (tick_of_reset rfl rfl)]
  rfl

/-! The acknowledgements (R95, R109, R110). -/

theorem tick_of_inAck {p : PortsIn} {s : State} (hr : p.rst = false) (hp : s.phase = .waitIn) (hack : p.inAck = true) :
    tick p s = .next (commitIn p.answer (s.adapter.logAnswer p.answer) s) := by
  rw [tick_of_waitIn hr hp, if_pos hack]

theorem tick_of_no_inAck {p : PortsIn} {s : State} (hr : p.rst = false) (hp : s.phase = .waitIn) (hack : p.inAck = false) :
    tick p s = .next s := by
  rw [tick_of_waitIn hr hp, if_neg (Bool.eq_false_iff.1 hack)]

theorem tick_of_outAck {p : PortsIn} {s : State} {b : Byte} (hr : p.rst = false) (hp : s.phase = .waitOut b)
    (hack : p.outAck = true) : tick p s = .next (commitOut (s.adapter.logByte b) s) := by
  rw [tick_of_waitOut hr hp, if_pos hack]

theorem tick_of_no_outAck {p : PortsIn} {s : State} {b : Byte} (hr : p.rst = false) (hp : s.phase = .waitOut b)
    (hack : p.outAck = false) : tick p s = .next s := by
  rw [tick_of_waitOut hr hp, if_neg (Bool.eq_false_iff.1 hack)]

/-- In a coherent wait for output the instruction at `C` is OUT (R95). -/
theorem Coherent.out_of_waitOut {s : State} {b : Byte} (hc : Coherent s) (hp : s.phase = .waitOut b) :
    s.halted = false ∧ fetchInstr s = .out := by
  obtain ⟨-, hc⟩ := hc
  simp only [hp] at hc
  obtain ⟨hh, hi, -⟩ := hc
  exact ⟨hh, hi⟩

/-- The acknowledgement of IN ends the step (R95, R109). -/
theorem commitIn_frame_of_ack {s : State} (hh : s.halted = false) (ans : InAnswer) :
    fsmState (commitIn ans (s.adapter.logAnswer ans) s) = .idle ∧
      Advanced s.c s.d (commitIn ans (s.adapter.logAnswer ans) s) ∧
      SameMemory s (commitIn ans (s.adapter.logAnswer ans) s) ∧
      (commitIn ans (s.adapter.logAnswer ans) s).adapter.answered = s.adapter.answered ++ [ans] := by
  simp [fsmState_eq_idle_iff, Advanced, SameMemory, incr, hh]

/-- An instruction without a handshake completes (R95). -/
theorem exec_completes {i : Instr} {s : State} (hp : s.phase = .ready) (hh : s.halted = false) (hin : i ≠ .inp)
    (hout : i = .out → s.a = sentinel) : ∃ t, exec i s = .next t ∧ t.phase = .ready := by
  match hd : dispatched s i with
  | some u => exact ⟨_, exec_of_dispatched hh hd, (finish_phase u).trans (dispatched_phase hd hp)⟩
  | none =>
    obtain ⟨q, ⟨hi, -⟩ | ⟨hi, ha, -⟩, -⟩ := exec_of_not_dispatched hd
    · exact absurd hi hin
    · exact absurd (hout hi) ha

/-- Settles O41, row by row: a row's state and ports select one transition of the tick. -/
theorem fsmTransitions : Obligations.FsmTransitions := by
  intro p s hc
  refine ⟨tick_of_rst_no_load, fun hr hf => ?release, fun hr hf hs hin hout => ?complete, fun hr hf hs hi ha => ?halt,
    fun hr hf hs hi ha => ?offer, fun hr hf hs hi => ?request, fun b hr hp hack => ?taken, fun hr hp hack heof => ?byte,
    fun hr hp hack heof => ?eof, tick_of_no_inAck, fun b => tick_of_no_outAck, fun hr hf => ?halted⟩
  case release =>
    have hp : s.phase = .reset := fsmState_eq_reset_iff.1 hf
    obtain ⟨-, -, -, hh, -⟩ := hc.values_of_reset hp
    exact ⟨_, tick_of_reset hr hp, rfl, fsmState_eq_idle_iff.2 ⟨rfl, hh⟩⟩
  case complete =>
    obtain ⟨hp, hh⟩ := fsmState_eq_idle_iff.1 hf
    obtain ⟨t, ht, htp⟩ := exec_completes hp hh hin fun hi => absurd hi hout
    exact ⟨t, by rw [tick_of_start hr hp hh hs, startStep_eq_exec hin fun hi => absurd hi hout, ht],
      (step_of_running hp hh).trans ht, fsmState_of_ready htp⟩
  case halt =>
    obtain ⟨hp, hh⟩ := fsmState_eq_idle_iff.1 hf
    refine ⟨haltStep s, ?_, haltStep_halted s, haltStep_haltPointers s,
      fsmState_eq_halted_iff.2 ⟨(haltStep_phase s).trans hp, haltStep_halted s⟩, haltStep_adapter s⟩
    rw [tick_of_start hr hp hh hs, startStep_eq_exec (by simp [hi]) fun _ => ha, hi, exec_out_sentinel ha]
  case offer =>
    obtain ⟨hp, hh⟩ := fsmState_eq_idle_iff.1 hf
    rw [tick_of_start hr hp hh hs, startStep_of_out_byte hi ha, lowByte_eq_mod]
  case request =>
    obtain ⟨hp, hh⟩ := fsmState_eq_idle_iff.1 hf
    rw [tick_of_start hr hp hh hs, startStep_of_inp hi]
  case taken =>
    obtain ⟨hh, -⟩ := hc.out_of_waitOut hp
    exact ⟨_, tick_of_outAck hr hp hack, fsmState_eq_idle_iff.2 ⟨rfl, hh⟩, ⟨rfl, rfl⟩, rfl, rfl, fun _ => rfl, rfl⟩
  case byte =>
    obtain ⟨hh, -⟩ := hc.inp_of_waitIn hp
    have hans : p.answer = .byte p.inByte := by simp [PortsIn.answer, heof]
    obtain ⟨hidle, hadv, hmem, hanswered⟩ := commitIn_frame_of_ack hh (.byte p.inByte)
    exact ⟨_, hans ▸ tick_of_inAck hr hp hack, hidle, hadv, rfl, rfl, hmem, hanswered⟩
  case eof =>
    obtain ⟨hh, -⟩ := hc.inp_of_waitIn hp
    have hans : p.answer = .eof := by simp [PortsIn.answer, heof]
    obtain ⟨hidle, hadv, hmem, hanswered⟩ := commitIn_frame_of_ack hh .eof
    exact ⟨_, hans ▸ tick_of_inAck hr hp hack, hidle, hadv, rfl, rfl, hmem, hanswered⟩
  case halted =>
    obtain ⟨hp, hh⟩ := fsmState_eq_halted_iff.1 hf
    exact ⟨tick_of_halted hr hp hh, hh⟩

/-- Settles O42: only IDLE's transition reads the two requests, and there both count alike. -/
theorem startingAStep : Obligations.StartingAStep := by
  refine ⟨fun p s hr hf hs => ?starts, fun p s hr hf hreq hrun => ?stays, fun p s req run hb => ?busy, fun s hp hh => ?meaning⟩
  case starts =>
    obtain ⟨hp, hh⟩ := fsmState_eq_idle_iff.1 hf
    exact tick_of_start hr hp hh (PortsIn.start_iff.2 hs)
  case stays =>
    obtain ⟨hp, hh⟩ := fsmState_eq_idle_iff.1 hf
    exact tick_of_no_start hr hp hh (PortsIn.not_start hreq hrun)
  case busy =>
    match hp : s.phase with
    | .ready => simp [busy_eq_false_iff.2 hp] at hb
    | .reset | .waitIn | .waitOut b => rw [tick, tick, hp]; rfl
  case meaning =>
    rcases startStep_cases s with e | ⟨q, ⟨hi, rfl⟩ | ⟨hi, ha, rfl⟩, e⟩
    · exact .inl e
    · exact .inr (.inl ⟨hi, e⟩)
    · exact .inr (.inr ⟨hi, ha, e⟩)

/-- Settles O43: each request is its wait's output, and only that wait's transition reads the acknowledgement. -/
theorem portProtocols : Obligations.PortProtocols := by
  refine ⟨fun free p s => ?requests, fun free p s b hp => ?offered, fun s hc => ⟨fun hp => (hc.inp_of_waitIn hp).2,
    fun b hp => (hc.out_of_waitOut hp).2⟩, fun p s ack eof b hp => ?strayIn, fun p s ack hp => ?strayOut,
    fun p s hr hp hack => ⟨_, tick_of_inAck hr hp hack, commitIn_phase _ _ s, by rw [commitIn_adapter]; rfl⟩,
    fun p s b hr hp => ⟨fun hack => ⟨_, tick_of_outAck hr hp hack, rfl, rfl⟩, tick_of_no_outAck hr hp⟩⟩
  case requests => cases hp : s.phase <;> simp [portsOut, hp]
  case offered => simp [portsOut, hp]
  case strayIn =>
    match hq : s.phase with
    | .waitIn => exact absurd hq hp
    | .ready | .reset | .waitOut c => rw [tick, tick, hq]; rfl
  case strayOut =>
    match hq : s.phase with
    | .waitOut b => exact absurd hq (hp b)
    | .ready | .reset | .waitIn => rw [tick, tick, hq]; rfl

/-- Settles O44: between steps the select code picks its row, elsewhere the free value shows, and no transition reads the port. -/
theorem observePort : Obligations.ObservePort := by
  refine ⟨fun s free addr hb => ?table, fun s sel addr h v => ⟨v, ?free⟩, fun s => busy_eq_false_iff, fun _ _ _ _ => rfl⟩
  case table => simp [obsData, hb]
  case free =>
    rcases h with hb | rfl | rfl | ⟨rfl, haddr⟩
    · simp [obsData, hb]
    · simp [obsData]
    · simp [obsData]
    · simp [obsData, ofStored_eq_none_iff.2 haddr]

/-! Ticks implement the step (R95, R98). -/

/-- Cycles that leave the machine as it is pass. -/
theorem ticks_of_fixed {s : State} {waits : List PortsIn} (h : ∀ w ∈ waits, tick w s = .next s) (ps : List PortsIn) :
    ticks (waits ++ ps) s = ticks ps s := by
  induction waits with
  | nil => rfl
  | cons w waits ih =>
    obtain ⟨hw, hrest⟩ := List.forall_mem_cons.1 h
    rw [List.cons_append, ticks_cons hw, ih hrest]

/-- A start that enters a wait, cycles that leave it, and the cycle that ends it. -/
theorem ticks_of_handshake {s s' u : State} {p q : PortsIn} {waits : List PortsIn} (hstart : tick p s = .next s')
    (hwaits : ∀ w ∈ waits, tick w s' = .next s') (hack : tick q s' = .next u) :
    ticks (p :: waits ++ [q]) s = .next u := by
  rw [List.cons_append, ticks_cons hstart, ticks_of_fixed hwaits, ticks_cons hack, ticks]

/-- An instruction has one wait. -/
theorem WaitsIn.unique {i : Instr} {s : State} {p q : Phase} (hp : WaitsIn i s p) (hq : WaitsIn i s q) : p = q := by
  rcases hp with ⟨rfl, rfl⟩ | ⟨rfl, -, rfl⟩
  · obtain ⟨-, rfl⟩ | ⟨⟨⟩, -⟩ := hq
    rfl
  · obtain ⟨⟨⟩, -⟩ | ⟨-, -, rfl⟩ := hq
    rfl

/-- Where the host does not act, the start of a step leaves the FSM where the step leaves it. -/
theorem startStep_of_waiting {s t : State} (hp : s.phase = .ready) (hh : s.halted = false)
    (h : exec (fetchInstr s) s = .next t) (ht : t.phase ≠ .ready) : startStep s = .next t := by
  rcases startStep_cases s with e | ⟨p, hwait, e⟩
  · rw [e, h]
  · match hd : dispatched s (fetchInstr s) with
    | some u =>
      rw [exec_of_dispatched hh hd] at h
      cases h
      exact absurd ((finish_phase u).trans (dispatched_phase hd hp)) ht
    | none =>
      obtain ⟨q, hwait', e'⟩ := exec_of_not_dispatched hd
      rw [e, ← h, e', hwait.unique hwait']

/-- IN's acknowledgement from its wait leaves the core and the record as the step's answer does (R95, R109). -/
theorem sameCoreAndRecord_commitIn {s : State} {ans : InAnswer} {ad : Adapter}
    (h : s.adapter.readByte = some (ans, ad)) (p : Phase) :
    SameCoreAndRecord (commitIn ans ad s) (commitIn ans (s.adapter.logAnswer ans) (setPhase p s)) := by
  obtain ⟨hanswered, htaken, -⟩ := readByte_some h
  refine ⟨?_, by simp [hanswered], by simp [htaken]⟩
  cases ans <;> rfl

/-- OUT's acknowledgement from its wait leaves the core and the record as the byte taken in the step does (R95, R110). -/
theorem sameCoreAndRecord_commitOut {s : State} {b : Byte} {ad : Adapter} (h : s.adapter.writeByte b = some ad) (p : Phase) :
    SameCoreAndRecord (commitOut ad s) (commitOut (s.adapter.logByte b) (setPhase p s)) := by
  obtain ⟨htaken, hanswered, -⟩ := writeByte_some h
  exact ⟨rfl, by simp [hanswered], by simp [htaken]⟩

/-- Settles O45: the start of a step is the step, or enters its wait; there inert cycles pass, whatever their number, and the
acknowledgement commits what the step commits. -/
theorem ticksImplementStep : Obligations.TicksImplementStep := by
  intro s t p hp hh hr hs h
  have htick : tick p s = startStep s := tick_of_start hr hp hh hs
  rw [step_of_running hp hh] at h
  refine ⟨fun hin hout => ?whole, fun ht => htick.trans (startStep_of_waiting hp hh h ht),
    fun waits q ht hq hwaits => ⟨fun hi ⟨hack, ad, hread⟩ => ?input, fun hi ha hack => ?output⟩⟩
  case whole => rw [htick, startStep_eq_exec hin fun hi => hout.resolve_left fun hne => hne hi, h]
  case input =>
    rw [hi, exec_inp_of_readByte hread] at h
    cases h
    refine ⟨_, ticks_of_handshake (htick.trans (startStep_of_inp hi)) (fun w hw => ?_) (tick_of_inAck hq rfl hack),
      sameCoreAndRecord_commitIn hread .waitIn⟩
    obtain ⟨hwr, hwin, -⟩ := hwaits w hw
    exact tick_of_no_inAck hwr rfl hwin
  case output =>
    rw [hi, exec_out_byte ha] at h
    cases h
    rcases offerOut_cases (lowByte s.a) s with ⟨ad, hwrite, e⟩ | ⟨-, e⟩
    · rw [e]
      refine ⟨_, ticks_of_handshake (htick.trans (startStep_of_out_byte hi ha)) (fun w hw => ?_) (tick_of_outAck hq rfl hack),
        sameCoreAndRecord_commitOut hwrite _⟩
      obtain ⟨hwr, -, hwout⟩ := hwaits w hw
      exact tick_of_no_outAck hwr rfl hwout
    · simp [e] at ht

end Sys2Proof.Machine
end

section
/-! PROOFS of the family other, the Loader: what one character of the text does, said once; from it the errors (R66), the words and the
image (R68). -/

namespace Sys2Proof.Machine

/-! One character (R63 to R65). -/

/-- An opcode character becomes one of the eight codes (R63). -/
theorem mem_opcodes_of_opcodeOfChar {c : Char} {w : Word} (h : opcodeOfChar c = some w) : w ∈ opcodes :=
  List.mem_of_find?_eq_some h

/-- Outside a comment a whitespace character is skipped (R65). -/
theorem scan_space {c : Char} (h : isLoaderSpace c = true) (rest : List Char) : scan false (c :: rest) = scan false rest := by
  have hc : c ≠ '(' := by
    rintro rfl
    exact absurd h (by decide)
  rw [scan, if_neg hc, if_pos h]

/-- Outside a comment an opcode character gives its word (R63). -/
theorem scan_opcode {c : Char} {w : Word} (hc : c ≠ '(') (hs : isLoaderSpace c = false) (ho : opcodeOfChar c = some w)
    (rest : List Char) : scan false (c :: rest) = (scan false rest).map (w :: ·) := by
  rw [scan, if_neg hc, if_neg (Bool.eq_false_iff.1 hs), ho]
  cases scan false rest <;> rfl

/-- Any other character outside a comment is an error (R66). -/
theorem scan_bad {c : Char} (hc : c ≠ '(') (hs : isLoaderSpace c = false) (ho : opcodeOfChar c = none) (rest : List Char) :
    scan false (c :: rest) = .error (.badCharacter c) := by
  rw [scan, if_neg hc, if_neg (Bool.eq_false_iff.1 hs), ho]

/-- What a character does, whatever follows it: it is skipped, gives a word, or ends the scan with an error. -/
theorem scan_cons_cases (inside : Bool) (c : Char) :
    (∃ inside', ∀ rest, scan inside (c :: rest) = scan inside' rest) ∨
      (∃ w ∈ opcodes, ∀ rest, scan inside (c :: rest) = (scan false rest).map (w :: ·)) ∨
      (∀ rest, scan inside (c :: rest) = .error (.badCharacter c)) := by
  cases inside with
  | true =>
    by_cases hc : c = ')'
    · exact .inl ⟨false, hc ▸ scan_comment_close⟩
    · exact .inl ⟨true, scan_comment_cons hc⟩
  | false =>
    by_cases hc : c = '('
    · exact .inl ⟨true, hc ▸ scan_open⟩
    match hs : isLoaderSpace c, ho : opcodeOfChar c with
    | true, _ => exact .inl ⟨false, scan_space hs⟩
    | false, some w => exact .inr (.inl ⟨w, mem_opcodes_of_opcodeOfChar ho, scan_opcode hc hs ho⟩)
    | false, none => exact .inr (.inr (scan_bad hc hs ho))

theorem map_cons_eq_ok {r : Except LoadError (List Word)} {w : Word} {ws : List Word} (h : r.map (w :: ·) = .ok ws) :
    ∃ ws', r = .ok ws' ∧ ws = w :: ws' := by
  cases r with
  | ok ws' => cases h; exact ⟨ws', rfl, rfl⟩
  | error e => cases h

/-! A whole text (R66, R68). -/

/-- After a beginning that is in order the scan goes on outside a comment. -/
theorem scan_append {inside : Bool} {pre : List Char} {ws : List Word} (h : scan inside pre = .ok ws) (rest : List Char) :
    scan inside (pre ++ rest) = (scan false rest).map (ws ++ ·) := by
  induction pre generalizing inside ws with
  | nil =>
    cases inside with
    | true => cases h
    | false =>
      cases h
      rw [List.nil_append]
      cases scan false rest <;> rfl
  | cons c pre ih =>
    rw [List.cons_append]
    rcases scan_cons_cases inside c with ⟨inside', e⟩ | ⟨w, -, e⟩ | e <;> rw [e] at h
    · rw [e, ih h]
    · obtain ⟨ws', hpre, rfl⟩ := map_cons_eq_ok h
      rw [e, ih hpre]
      cases scan false rest <;> rfl
    · cases h

/-- A scan gives nothing but opcode words (R63). -/
theorem mem_opcodes_of_scan {inside : Bool} {text : List Char} {ws : List Word} (h : scan inside text = .ok ws) :
    ∀ w ∈ ws, w ∈ opcodes := by
  induction text generalizing inside ws with
  | nil =>
    cases inside <;> cases h
    simp
  | cons c text ih =>
    rcases scan_cons_cases inside c with ⟨inside', e⟩ | ⟨w, hw, e⟩ | e <;> rw [e] at h
    · exact ih h
    · obtain ⟨ws', htext, rfl⟩ := map_cons_eq_ok h
      exact List.forall_mem_cons.2 ⟨hw, ih htext⟩
    · cases h

theorem load_of_scan_error {text : List Char} {e : LoadError} (h : scan false text = .error e) : load text = .error e := by
  rw [load, loadWithin, h]

theorem load_of_fit {text : List Char} {ws : List Word} (h : scan false text = .ok ws) (hl : ws.length ≤ 59049) :
    load text = .ok ws := by
  have hfit : ws.length ≤ Config.memWords := hl
  rw [load, loadWithin, h]
  exact if_pos hfit

theorem load_of_capacity {text : List Char} {ws : List Word} (h : scan false text = .ok ws) (hl : 59049 < ws.length) :
    load text = .error (.capacity ws.length 59049) := by
  have hfit : ¬ws.length ≤ Config.memWords := Nat.not_le.2 hl
  rw [load, loadWithin, h]
  exact if_neg hfit

/-- A text loads exactly when it is in order and its words fit memory (R66). -/
theorem load_eq_ok_iff {text : List Char} {ws : List Word} :
    load text = .ok ws ↔ scan false text = .ok ws ∧ ws.length ≤ 59049 := by
  refine ⟨fun h => ?_, fun ⟨h, hl⟩ => load_of_fit h hl⟩
  match hs : scan false text with
  | .error e => simp [load_of_scan_error hs] at h
  | .ok vs =>
    by_cases hl : vs.length ≤ 59049
    · rw [load_of_fit hs hl] at h
      cases h
      exact ⟨rfl, hl⟩
    · simp [load_of_capacity hs (Nat.lt_of_not_le hl)] at h

/-- An error after a beginning that is in order is the text's error. -/
theorem load_append_of_scan_error {pre rest : List Char} {ws : List Word} {e : LoadError} (h : scan false pre = .ok ws)
    (he : scan false rest = .error e) : load (pre ++ rest) = .error e :=
  load_of_scan_error (by rw [scan_append h, he]; rfl)

/-- Settles O52: after a beginning in order the next character decides, and a text in order may still hold too many words. -/
theorem loaderSpaceAndErrors : Obligations.LoaderSpaceAndErrors := by
  refine ⟨fun c rest hc => ?space, fun pre rest ws c h hc hs ho => load_append_of_scan_error h (scan_bad hc hs ho rest),
    by decide, fun pre body ws h hbody => load_append_of_scan_error h (loaderSkipsComments.2 body hbody),
    fun text ws => load_of_capacity⟩
  case space =>
    refine scan_space ?_ rest
    rcases hc with h | h | h | h | h | h <;> simp [isLoaderSpace, h]

/-! The image (R42, R68). -/

theorem imageFrom_cons {k : Nat} (hk : k < 59049) (w : Word) (ws : List Word) : imageFrom k (w :: ws) =
    if w = Memory.unlisted then imageFrom (k + 1) ws else (⟨k, hk⟩, w) :: imageFrom (k + 1) ws :=
  dif_pos hk

/-- What does not fit memory has no entry. -/
theorem imageFrom_of_le {k : Nat} (hk : 59049 ≤ k) (ws : List Word) : imageFrom k ws = [] := by
  cases ws with
  | nil => rfl
  | cons w ws => exact dif_neg (Nat.not_lt.2 hk)

/-- An image is canonical, and every entry stands at an address from its start on: addresses rise, and 0 has no entry. -/
theorem imageFrom_wf (k : Nat) (ws : List Word) : (imageFrom k ws).wf ∧ ∀ p ∈ imageFrom k ws, k ≤ p.1.val := by
  induction ws generalizing k with
  | nil => exact ⟨Memory.nil_wf, by simp [imageFrom]⟩
  | cons w ws ih =>
    by_cases hk : k < 59049
    · obtain ⟨hwf, hle⟩ := ih (k + 1)
      rw [imageFrom_cons hk]
      split
      · exact ⟨hwf, fun p hp => (Nat.le_succ k).trans (hle p hp)⟩
      · next hw =>
        exact ⟨Memory.wf_cons.2 ⟨fun p hp => hle p hp, hw, hwf⟩,
          List.forall_mem_cons.2 ⟨le_rfl, fun p hp => (Nat.le_succ k).trans (hle p hp)⟩⟩
    · rw [imageFrom_of_le (Nat.le_of_not_lt hk)]
      exact ⟨Memory.nil_wf, by simp⟩

/-- Below its start an image holds 0. -/
theorem read_imageFrom_of_lt {k : Nat} (ws : List Word) {x : Word} (h : x.val < k) : (imageFrom k ws).read x = 0 :=
  Memory.read_of_below fun p hp => h.trans_le ((imageFrom_wf k ws).2 p hp)

/-- The first word of an image stands at its start, and the rest is the image from the next address on. -/
theorem read_imageFrom_cons {k : Nat} (hk : k < 59049) (w : Word) (ws : List Word) (x : Word) :
    (imageFrom k (w :: ws)).read x = if x.val = k then w else (imageFrom (k + 1) ws).read x := by
  have haddr : (⟨k, hk⟩ : Word) = x ↔ x.val = k := by rw [Fin.ext_iff, eq_comm]
  rw [imageFrom_cons hk]
  by_cases hw : w = Memory.unlisted
  · rw [if_pos hw]
    split
    · next hx => exact (read_imageFrom_of_lt ws (by omega)).trans hw.symm
    · rfl
  · rw [if_neg hw, Memory.read_cons]
    simp only [haddr]

/-- The word at `n` addresses after the start is the program's word `n`, and 0 after the last (R68). -/
theorem read_imageFrom {k n : Nat} {ws : List Word} {x : Word} (hk : k + ws.length ≤ 59049) (hx : x.val = k + n) :
    (imageFrom k ws).read x = ws.getD n 0 := by
  induction ws generalizing k n with
  | nil => rfl
  | cons w ws ih =>
    rw [List.length_cons] at hk
    rw [read_imageFrom_cons (by omega)]
    cases n with
    | zero => rw [if_pos (by omega), List.getD_cons_zero]
    | succ n =>
      have hrest : x.val = k + 1 + n := by omega
      rw [if_neg (by omega), ih (by omega) hrest, List.getD_cons_succ]

/-- The character whose code is an opcode is scanned as that opcode (R63). -/
theorem scan_char_of_opcode {w : Word} (h : w ∈ opcodes) (rest : List Char) :
    scan false (Char.ofNat w.val :: rest) = (scan false rest).map (w :: ·) := by
  have hchar : Char.ofNat w.val ≠ '(' ∧ isLoaderSpace (Char.ofNat w.val) = false ∧ opcodeOfChar (Char.ofNat w.val) = some w := by
    simp only [opcodes, List.mem_cons, List.not_mem_nil, or_false] at h
    rcases h with rfl | rfl | rfl | rfl | rfl | rfl | rfl | rfl <;> decide
  obtain ⟨hopen, hspace, hopcode⟩ := hchar
  exact scan_opcode hopen hspace hopcode rest

/-- A text of opcode characters is scanned to its codes in order (R63). -/
theorem scan_of_opcodes {ws : List Word} (h : ∀ w ∈ ws, w ∈ opcodes) :
    scan false (ws.map fun w => Char.ofNat w.val) = .ok ws := by
  induction ws with
  | nil => rfl
  | cons w ws ih =>
    obtain ⟨hw, hws⟩ := List.forall_mem_cons.1 h
    rw [List.map_cons, scan_char_of_opcode hw, ih hws]
    rfl

/-- Over memory of zeros a running machine runs on, and memory stays (R68, R119). -/
theorem steps_over_zeros (k : Nat) {s : State} (hp : s.phase = .ready) (hh : s.halted = false)
    (hz : ∀ x : Word, s.mem.read x = 0) :
    ∃ t, steps k s = .next t ∧ t.halted = false ∧ ∀ x : Word, t.mem.read x = 0 := by
  induction k generalizing s with
  | zero => exact ⟨s, rfl, hh, hz⟩
  | succ k ih =>
    have hw : instrWord s ∉ opcodes := by rw [instrWord, hz]; decide
    rw [steps_succ (step_of_not_opcode hp hh hw)]
    exact ih (s := advance s) hp hh hz

/-- Settles O53: the words are what the scan gives where they fit, and the image holds them from address 0 on. -/
theorem loaderImage : Obligations.LoaderImage := by
  refine ⟨fun text ws h => ?words, fun ws hl => ⟨(imageFrom_wf 0 ws).1, fun x => ?image⟩, fun text ws ws' h h' => ?unique,
    fun ws hl hws => load_eq_ok_iff.2 ⟨scan_of_opcodes hws, hl⟩, rfl, fun k => ?zeros⟩
  case words =>
    obtain ⟨hscan, hl⟩ := load_eq_ok_iff.1 h
    exact ⟨hl, mem_opcodes_of_scan hscan⟩
  case image => exact read_imageFrom (by omega) (Nat.zero_add x.val).symm
  case unique => exact Except.ok.inj (h.symm.trans h')
  case zeros => exact steps_over_zeros k rfl rfl fun _ => rfl

end Sys2Proof.Machine
end
